-- ==== Sys2Proof/Word.lean ====
section
/-! DEFINITION. The bit-vector widths of the block: register bytes, LitPatterns, samples and stimulus words. -/

namespace Sys2Proof

/-- An 8-bit register: a buffer entry, a port register, a converter byte (10_state.md R10, R15, R20). -/
abbrev Byte := BitVec 8

/-- A 16-bit LitPattern; bit `i` means "LED `i` should be lit" (30_encoding.md R67). -/
abbrev Pattern := BitVec 16

/-- A 16-bit analog sample (20_memory.md R42). -/
abbrev Sample := BitVec 16

/-- A 24-bit stimulus word, one operation of the block (30_encoding.md R60). -/
abbrev Word := BitVec 24

end Sys2Proof
end

