-- ==== Sys2Proof/Config.lean ====
section
/-! DEFINITION. What is fixed for a run: the names of ports, pins, modes and interrupt sources, the record of
the spec's open parameters (00_scope.md R5), and the one free value, the dispatcher's choice. The values of the
parameters and their constraints stand in Machine/Params.lean. -/

namespace Sys2Proof

/-- The four output port registers (10_state.md R15). -/
inductive Port where
  | b | c | d | e
deriving DecidableEq, Repr

/-- A pin: bit `pin` of port register `port` (10_state.md R22, 00_scope.md section 6). -/
structure Pin where
  port : Port
  pin : Fin 8
deriving DecidableEq, Repr

/-- The three display modes (10_state.md R11). -/
inductive Mode where
  | direct | vu | attract
deriving DecidableEq, Repr

/-- The three trigger sources of the converter (30_encoding.md R66). -/
inductive Trigger where
  | disabled | timerDriven | continuous
deriving DecidableEq, Repr

/-- The three interrupt sources (60_exceptions.md R163). -/
inductive Source where
  | control | refresh | sample
deriving DecidableEq, Repr

/-- The parameters that 92_eei_decisions.md lists as OPEN (00_scope.md R5); constants of a run (R9).
Everything else is fixed. -/
structure Config where
  /-- `BOOT_MODE`: the mode after reset. -/
  bootMode : Mode
  /-- `CMP_INCLUSIVE`: `build_pat` compares with `>=` instead of `>`. -/
  cmpInclusive : Bool
  /-- `PHASE_BITS`: the width of the animation phase register. -/
  phaseBits : Nat
  /-- `SHIFT_DIRECT`: the right shift of the sample in Direct mode. -/
  shiftDirect : Nat
  /-- `SHIFT_VU`: the right shift of the sample in VU mode. -/
  shiftVu : Nat
  /-- `REFRESH_GATED`: the refresh handler drives the ports only in Attract mode. -/
  refreshGated : Bool
  /-- `PIN_TABLE`: LED index to pin. -/
  pinTable : Vector Pin 16
deriving DecidableEq, Repr

/-- FREE VALUE (log 4, DESIGN CHOICE). Among several enabled handler steps the dispatcher may take any
(60_exceptions.md R169, 93_implementation_defined.md U3). Applied to the counter `State.draws`; it has no body,
so no proof can see which handler it picks. -/
opaque Config.dispatchChoice : Nat → Nat

end Sys2Proof
end

