-- ==== Sys2Proof/Syntax.lean ====
section
/-! DEFINITION. The operations of the block, one constructor per row of spec/opcode_table.json, and the raw
fields of a stimulus word (30_encoding.md R60 to R62). -/

namespace Sys2Proof

/-- One operation of the block (30_encoding.md R62). Operands have the widths of 30_encoding.md R61. -/
inductive Instr where
  /-- `NOP`: time passes in the idle main loop (R140). -/
  | nop
  /-- `RST`: power-on reset (R141). -/
  | rst
  /-- `START`: enable preemption (R142). -/
  | start
  /-- `STOP`: disable preemption (R143). -/
  | stop
  /-- `TICKC`: the control timer overflows (R144). -/
  | tickc
  /-- `TICKR`: the refresh timer overflows (R145). -/
  | tickr
  /-- `ADCDONE v`: the converter completes a conversion with result `v` (R146). -/
  | adcdone (v : Sample)
  /-- `BTN level`: the button pin goes to `level`; `false` is pressed, `true` released (R147). -/
  | btn (level : Bool)
  /-- `PINWR p, v`: another owner of port `p` writes its own pins (R148). -/
  | pinwr (p : Port) (v : Byte)
  /-- `ISRC`: the control handler is dispatched (R110). -/
  | isrc
  /-- `ISRR`: the refresh handler is dispatched (R125). -/
  | isrr
  /-- `ISRS`: the sample handler is dispatched (R130). -/
  | isrs
deriving DecidableEq, Repr

/-- Who performs an operation (the "agent" column of 30_encoding.md R62; 00_scope.md R7). -/
inductive Agent where
  | environment | idleContext | controlTimer | refreshTimer | converter | button | foreignOwner | dispatcher
deriving DecidableEq, Repr

/-- The agent of each operation (30_encoding.md R62). -/
def Instr.agent : Instr → Agent
  | .nop => .environment
  | .rst => .environment
  | .start => .idleContext
  | .stop => .idleContext
  | .tickc => .controlTimer
  | .tickr => .refreshTimer
  | .adcdone _ => .converter
  | .btn _ => .button
  | .pinwr _ _ => .foreignOwner
  | .isrc => .dispatcher
  | .isrr => .dispatcher
  | .isrs => .dispatcher

/-- The mnemonic of each operation, as the opcode table spells it (30_encoding.md R62). -/
def Instr.mnemonic : Instr → String
  | .nop => "NOP"
  | .rst => "RST"
  | .start => "START"
  | .stop => "STOP"
  | .tickc => "TICKC"
  | .tickr => "TICKR"
  | .adcdone _ => "ADCDONE"
  | .btn _ => "BTN"
  | .pinwr _ _ => "PINWR"
  | .isrc => "ISRC"
  | .isrr => "ISRR"
  | .isrs => "ISRS"

/-- The handler operation of each interrupt source (60_exceptions.md R163). -/
def Source.handler : Source → Instr
  | .control => .isrc
  | .refresh => .isrr
  | .sample => .isrs

/-- The source a dispatcher operation serves; none for an environment operation (60_exceptions.md R163). -/
def Instr.served : Instr → Option Source
  | .nop => none
  | .rst => none
  | .start => none
  | .stop => none
  | .tickc => none
  | .tickr => none
  | .adcdone _ => none
  | .btn _ => none
  | .pinwr _ _ => none
  | .isrc => some .control
  | .isrr => some .refresh
  | .isrs => some .sample

/-- The three fields of a stimulus word, before any check (30_encoding.md R60). -/
structure Fields where
  op : BitVec 4
  sel : BitVec 4
  data : BitVec 16
deriving DecidableEq, Repr

end Sys2Proof
end

