-- ==== Sys2Proof/WellFormed.lean ====
section
/-! DEFINITION. When the raw fields of a stimulus word form an operation: the operation code is one of the
twelve, and every field that must be zero is zero (30_encoding.md R61, R63). The operands of `Instr` are typed,
so an `Instr` has no further check of its own. -/

namespace Sys2Proof

/-- `op` is one of 0x0 to 0xB; 0xC to 0xF are reserved (30_encoding.md R63). -/
def Fields.opKnown (f : Fields) : Bool := f.op.toNat < 12

/-- `sel[3:2] = 0` for `PINWR` and `sel = 0` for every other operation (30_encoding.md R61). -/
def Fields.selOk (f : Fields) : Bool :=
  if f.op = 0x8#4 then f.sel.toNat < 4 else f.sel = 0#4

/-- `data` is free for `ADCDONE`, `data[15:1] = 0` for `BTN`, `data[15:8] = 0` for `PINWR` and `data = 0` for
every other operation (30_encoding.md R61). -/
def Fields.dataOk (f : Fields) : Bool :=
  if f.op = 0x6#4 then true
  else if f.op = 0x7#4 then f.data.toNat < 2
  else if f.op = 0x8#4 then f.data.toNat < 256
  else f.data = 0#16

/-- The fields of a legal stimulus word (30_encoding.md R63). -/
def Fields.wellFormed (f : Fields) : Bool := f.opKnown && f.selOk && f.dataOk

end Sys2Proof
end

