-- ==== Sys2Proof/Decode.lean ====
section
/-! DEFINITION. The opcode map of 30_encoding.md R62 as mask and match rows, the decoder of stimulus words
(total; an illegal word is rejected by the field that is wrong, R63), and after it the encoder. -/

namespace Sys2Proof

/-- One row of the opcode map: a word `w` is the operation iff `w & mask = pattern` (30_encoding.md R62). -/
structure OpcodeRow where
  mnemonic : String
  mask : Word
  pattern : Word
deriving DecidableEq, Repr

/-- Does the word match the row (30_encoding.md R62)? -/
def OpcodeRow.covers (r : OpcodeRow) (w : Word) : Bool := w &&& r.mask = r.pattern

/-- The twelve rows of 30_encoding.md R62. -/
def opcodeTable : List OpcodeRow :=
  [ ⟨"NOP", 0xFFFFFF#24, 0x000000#24⟩,
    ⟨"RST", 0xFFFFFF#24, 0x100000#24⟩,
    ⟨"START", 0xFFFFFF#24, 0x200000#24⟩,
    ⟨"STOP", 0xFFFFFF#24, 0x300000#24⟩,
    ⟨"TICKC", 0xFFFFFF#24, 0x400000#24⟩,
    ⟨"TICKR", 0xFFFFFF#24, 0x500000#24⟩,
    ⟨"ADCDONE", 0xFF0000#24, 0x600000#24⟩,
    ⟨"BTN", 0xFFFFFE#24, 0x700000#24⟩,
    ⟨"PINWR", 0xFCFF00#24, 0x800000#24⟩,
    ⟨"ISRC", 0xFFFFFF#24, 0x900000#24⟩,
    ⟨"ISRR", 0xFFFFFF#24, 0xA00000#24⟩,
    ⟨"ISRS", 0xFFFFFF#24, 0xB00000#24⟩ ]

/-- Why a stimulus word is illegal (30_encoding.md R63). -/
inductive DecodeError where
  /-- `op` in 0xC..0xF. -/
  | reservedOp
  /-- A nonzero bit of `sel` that must be zero. -/
  | selNotZero
  /-- A nonzero bit of `data` that must be zero. -/
  | dataNotZero
deriving DecidableEq, Repr

/-- The fields `op[23:20]`, `sel[19:16]`, `data[15:0]` of a word (30_encoding.md R60). -/
def fieldsOf (w : Word) : Fields :=
  ⟨w.extractLsb' 20 4, w.extractLsb' 16 4, w.extractLsb' 0 16⟩

/-- The port `PINWR` names: `sel[1:0]`, 0 = B, 1 = C, 2 = D, 3 = E (30_encoding.md R61). -/
def portOfSel (sel : BitVec 4) : Port :=
  match (sel.extractLsb' 0 2).toNat with
  | 0 => .b
  | 1 => .c
  | 2 => .d
  | _ => .e

/-- The operation that well-formed fields stand for (30_encoding.md R61, R62). -/
def instrOfFields (f : Fields) : Except DecodeError Instr :=
  match f.op.toNat with
  | 0x0 => .ok .nop
  | 0x1 => .ok .rst
  | 0x2 => .ok .start
  | 0x3 => .ok .stop
  | 0x4 => .ok .tickc
  | 0x5 => .ok .tickr
  | 0x6 => .ok (.adcdone f.data)
  | 0x7 => .ok (.btn (f.data.getLsbD 0))
  | 0x8 => .ok (.pinwr (portOfSel f.sel) (f.data.extractLsb' 0 8))
  | 0x9 => .ok .isrc
  | 0xA => .ok .isrr
  | 0xB => .ok .isrs
  | _ => .error .reservedOp

/-- The operation that raw fields stand for, or what is wrong with them (30_encoding.md R63). -/
def decodeFields (f : Fields) : Except DecodeError Instr :=
  if f.opKnown then
    if f.selOk then
      if f.dataOk then instrOfFields f else .error .dataNotZero
    else .error .selNotZero
  else .error .reservedOp

/-- The decoder: one operation, or the reason the word is illegal (30_encoding.md R63). -/
def decode (w : Word) : Except DecodeError Instr := decodeFields (fieldsOf w)

/-- The number of a port in `PINWR`'s selector (30_encoding.md R61). -/
def selOfPort : Port → BitVec 4
  | .b => 0#4
  | .c => 1#4
  | .d => 2#4
  | .e => 3#4

/-- The fields of an operation (30_encoding.md R61, R62). -/
def fieldsOfInstr : Instr → Fields
  | .nop => ⟨0x0#4, 0#4, 0#16⟩
  | .rst => ⟨0x1#4, 0#4, 0#16⟩
  | .start => ⟨0x2#4, 0#4, 0#16⟩
  | .stop => ⟨0x3#4, 0#4, 0#16⟩
  | .tickc => ⟨0x4#4, 0#4, 0#16⟩
  | .tickr => ⟨0x5#4, 0#4, 0#16⟩
  | .adcdone v => ⟨0x6#4, 0#4, v⟩
  | .btn level => ⟨0x7#4, 0#4, if level then 1#16 else 0#16⟩
  | .pinwr p v => ⟨0x8#4, selOfPort p, v.setWidth 16⟩
  | .isrc => ⟨0x9#4, 0#4, 0#16⟩
  | .isrr => ⟨0xA#4, 0#4, 0#16⟩
  | .isrs => ⟨0xB#4, 0#4, 0#16⟩

/-- A word from its three fields (30_encoding.md R60). -/
def wordOfFields (f : Fields) : Word := f.op ++ f.sel ++ f.data

/-- The encoder: the stimulus word of an operation (30_encoding.md R62). -/
def encode (i : Instr) : Word := wordOfFields (fieldsOfInstr i)

/-- What the decoder reads from the low `nbits` bits of `w`, numbered as spec/opcode_table.json numbers them;
every bit above is zero. A stimulus word has 24 bits and no byte order (30_encoding.md R60). -/
def decodeTableWord (nbits w : Nat) : Option Instr :=
  let bits := w % 2 ^ nbits
  if bits < 2 ^ 24 then
    match decode (BitVec.ofNat 24 bits) with
    | .ok i => some i
    | .error _ => none
  else none

end Sys2Proof
end

