-- ==== Sys2Proof/Machine/Params.lean ====
section
/-! DEFINITION. The fixed parameters and tables of the block, the defaults of the open ones, the constraints a
configuration must meet, the numeric encodings of modes and triggers, and the port masks that follow from the
pin table. -/

namespace Sys2Proof.Machine

/-- `THRESH_STEP`: the threshold increment per refresh tick (00_scope.md R5). -/
def threshStep : Byte := 16#8

/-- `DEBOUNCE_WINDOW`: the value the debounce counter is armed to (00_scope.md R5). -/
def debounceWindow : Byte := 16#8

/-- `PHASE_INC`: the phase increment per control tick (00_scope.md R5). -/
def phaseInc : Nat := 323

/-- `ATTRACT_RANGE`: brightness at distance 0, and the distance at which it reaches 0 (00_scope.md R5). -/
def attractRange : Nat := 255

/-- `LED_SPACING`: track distance between consecutive LED positions (00_scope.md R5). -/
def ledSpacing : Nat := 256

/-- `SAMPLE_WIDTH`: the converter's resolution; an environment parameter that no rule of the block reads
(00_scope.md R5). -/
def sampleWidth : Nat := 10

/-- `GAMMA`: the seed table of the buffer (10_state.md R21). -/
def gamma : Vector Byte 16 :=
  #v[0, 1, 4, 9, 16, 25, 36, 49, 64, 81, 100, 121, 144, 169, 196, 255]

/-- The board's `PIN_TABLE` (10_state.md R22). -/
def boardPinTable : Vector Pin 16 :=
  #v[⟨.d, 2⟩, ⟨.c, 5⟩, ⟨.c, 4⟩, ⟨.c, 3⟩,
     ⟨.c, 2⟩, ⟨.e, 3⟩, ⟨.e, 2⟩, ⟨.b, 1⟩,
     ⟨.b, 0⟩, ⟨.d, 7⟩, ⟨.d, 6⟩, ⟨.d, 5⟩,
     ⟨.e, 1⟩, ⟨.e, 0⟩, ⟨.d, 4⟩, ⟨.d, 3⟩]

/-- The defaults of the open parameters (00_scope.md R5). -/
def defaultConfig : Config where
  bootMode := .attract
  cmpInclusive := false
  phaseBits := 12
  shiftDirect := 4
  shiftVu := 2
  refreshGated := true
  pinTable := boardPinTable

/-- No two LEDs share a pin (00_scope.md R6). -/
def pinTableInjective (t : Vector Pin 16) : Bool := decide t.toList.Nodup

/-- The constraints of 00_scope.md R6 on the open parameters. `BOOT_MODE` is a legal mode by its type, and the
two fixed parameters that R6 names meet their constraints (`debounceWindow`, `threshStep`). -/
def configOk (c : Config) : Bool :=
  decide (c.shiftVu < c.shiftDirect) && decide (c.shiftDirect ≤ 12) &&
    decide (12 ≤ c.phaseBits) && decide (c.phaseBits ≤ 16) && pinTableInjective c.pinTable

/-- `MASK[p]`: the bits of port `p` that drive display LEDs (10_state.md R15). -/
def portMask (t : Vector Pin 16) (p : Port) : Byte :=
  BitVec.ofFnLE fun n => (List.finRange 16).any fun i => t[i] = ⟨p, n⟩

/-- The numeric encoding of the modes (30_encoding.md R65). -/
def modeCode : Mode → BitVec 2
  | .direct => 0#2
  | .vu => 1#2
  | .attract => 2#2

/-- The numeric encoding of the triggers (30_encoding.md R66). -/
def trigCode : Trigger → BitVec 2
  | .disabled => 0#2
  | .timerDriven => 1#2
  | .continuous => 2#2

/-- How a converter reads `adc_trig`: 3, which no rule writes, is Disabled (30_encoding.md R66). -/
def trigMeaning (t : BitVec 2) : Trigger :=
  match t.toNat with
  | 1 => .timerDriven
  | 2 => .continuous
  | _ => .disabled

/-- `trig_of`: the sampler configuration of a mode (42_mode_fsm.md R102). -/
def trigOf : Mode → Trigger
  | .direct => .timerDriven
  | .vu => .continuous
  | .attract => .disabled

/-- The source identifiers 0, 1, 2; labels only (30_encoding.md R70). -/
def sourceId : Source → Nat
  | .control => 0
  | .refresh => 1
  | .sample => 2

end Sys2Proof.Machine
end

