-- ==== Sys2Proof/Machine/State.lean ====
section
/-! DEFINITION. The state of the block as plain data (10_state.md), the reasons a step can stop, and the state
after reset. -/

namespace Sys2Proof.Machine

/-- The four 8-bit port registers (10_state.md R15). -/
@[ext]
structure Ports where
  b : Byte
  c : Byte
  d : Byte
  e : Byte
deriving DecidableEq, Repr

/-- The three pending flags (10_state.md R17). -/
@[ext]
structure Pending where
  c : Bool
  r : Bool
  s : Bool
deriving DecidableEq, Repr

/-- The whole state. The first group is the block's own registers, the second the environment's input registers,
the third what is not a register: the parameters of the run and the model's two own fields. -/
@[ext]
structure State where
  /-- The display buffer, 16 brightness values (R10). -/
  buf : Vector Byte 16
  /-- The mode register, 2 bits; 3 is out of range (R11). -/
  mode : BitVec 2
  /-- The button debounce counter (R12). -/
  debounce : Byte
  /-- The dither threshold register (R13). -/
  slice : Byte
  /-- The attract-animation phase register; its width is `cfg.phaseBits`, at most 16 (R14; log 12). -/
  phase : BitVec 16
  /-- The port registers, display and foreign bits (R15). -/
  ports : Ports
  /-- The sampler-trigger configuration, 2 bits (R16). -/
  adcTrig : BitVec 2
  /-- The pending flags (R17). -/
  pend : Pending
  /-- The global interrupt enable (R18). -/
  gie : Bool
  /-- The level of the button pin: `true` = 1 = released (R19). -/
  btnN : Bool
  /-- The converter's low result byte (R20). -/
  adcL : Byte
  /-- The converter's high result byte (R20). -/
  adcH : Byte
  /-- The converter's byte-pair latch: the high byte frozen by a low-byte read, until it is read (R25, R44; log 9). -/
  adcLatch : Option Byte
  /-- The parameters of the run; no operation writes them (00_scope.md R5, R9; log 6). -/
  cfg : Config
  /-- The MODEL's own field: the operations still to be performed, first one first (30_encoding.md R60; log 1). -/
  schedule : List Word
  /-- The MODEL's own field: how many dispatcher choices have been drawn (60_exceptions.md R169; log 4, 5). -/
  draws : Nat
deriving DecidableEq, Repr

/-- The reasons the machine stops with a fault: none. "The block raises no synchronous exception"
(60_exceptions.md R160), so this type has no constructor. -/
inductive Fault where
deriving DecidableEq, Repr

/-- The reasons a step has no meaning. -/
inductive Refusal where
  /-- Raised by an arm of `exec` whose operation has no meaning yet; no arm is left. Safe. -/
  | notModelled (mnemonic : String)
  /-- Raised by the fetch: the next word of the schedule is illegal and has no step (46_environment_ops.md R149). Safe. -/
  | illegalWord (w : Word)
  /-- Raised by a dispatcher operation whose handler is not enabled: it has no step, and the schedule is not a run
  of the block there (30_encoding.md R63, 60_exceptions.md R167). Safe. -/
  | notEnabled (src : Source)
  /-- Raised by the fetch: the configuration is outside the constraints (00_scope.md R6). Safe. -/
  | badConfig
deriving DecidableEq, Repr

/-- The state after power-up with configuration `c` (70_reset_and_hazards.md R186). Foreign port bits and the
converter's registers are unspecified there; 0 is the model's choice (log 7, 8, 9), and so are the values of the
model's own fields (log 1, 5). -/
def State.powerUp (c : Config) : State where
  buf := gamma
  mode := modeCode c.bootMode
  debounce := 0#8
  slice := 0#8
  phase := 0#16
  ports := ⟨portMask c.pinTable .b, portMask c.pinTable .c, portMask c.pinTable .d, portMask c.pinTable .e⟩
  adcTrig := trigCode (trigOf c.bootMode)
  pend := ⟨false, false, false⟩
  gie := false
  btnN := true
  adcL := 0#8
  adcH := 0#8
  adcLatch := none
  cfg := c
  schedule := []
  draws := 0

/-- The machine right after reset, with the default parameters (00_scope.md R5). -/
def State.reset : State := State.powerUp defaultConfig

end Sys2Proof.Machine
end

