-- ==== Sys2Proof/Machine/Flags.lean ====
section
/-! DEFINITION. The dispatcher's flags: the pending bits, the global enable, and when a handler step is enabled
(60_exceptions.md R163 to R168). -/

namespace Sys2Proof.Machine

/-- The pending flag of a source (10_state.md R17). -/
def Pending.get (f : Pending) : Source → Bool
  | .control => f.c
  | .refresh => f.r
  | .sample => f.s

/-- The flags with one source's flag written (10_state.md R17). -/
def Pending.set (f : Pending) (src : Source) (v : Bool) : Pending :=
  match src with
  | .control => { f with c := v }
  | .refresh => { f with r := v }
  | .sample => { f with s := v }

/-- An event of a source arrives: its flag is set, whether or not it was (60_exceptions.md R165, R166). -/
def raiseEvent (src : Source) (s : State) : State := { s with pend := s.pend.set src true }

/-- The dispatch of a source clears its flag (60_exceptions.md R168). -/
def clearPending (src : Source) (s : State) : State := { s with pend := s.pend.set src false }

/-- Write the global enable (10_state.md R18). -/
def setGie (v : Bool) (s : State) : State := { s with gie := v }

/-- The handler step of a source is enabled iff `gie = 1` and its flag is set (60_exceptions.md R167). -/
def enabled (s : State) (src : Source) : Bool := s.gie && s.pend.get src

/-- The sources whose handler step is enabled (60_exceptions.md R169). -/
def enabledSources (s : State) : List Source :=
  [Source.control, Source.refresh, Source.sample].filter (enabled s)

end Sys2Proof.Machine
end

