-- ==== Sys2Proof/Machine/Operands.lean ====
section
/-! DEFINITION. Operand and value assembly: the two bytes of a conversion result, the sample, the quantiser and
the thermometer code, masked port bytes (20_memory.md R42, R45; 30_encoding.md R61, R69; 45_sample_handler.md R131). -/

namespace Sys2Proof.Machine

/-- The high byte of a conversion result, `v[15:8]` (30_encoding.md R61). -/
def highByte (v : Sample) : Byte := v.extractLsb' 8 8

/-- The low byte of a conversion result, `v[7:0]` (30_encoding.md R61). -/
def lowByte (v : Sample) : Byte := v.extractLsb' 0 8

/-- `(zext_16(hi) << 8) | zext_16(lo)` (20_memory.md R42). -/
def combine (hi lo : Byte) : Sample := (hi.setWidth 16 <<< 8) ||| lo.setWidth 16

/-- `quantize`: shift right and mask to 4 bits; bits above the field are discarded (45_sample_handler.md R131). -/
def quantize (shift : Nat) (v : Sample) : BitVec 4 := (v >>> shift).setWidth 4

/-- `thermo(n) = (1 << n) - 1`: the bottom `n` bits set (30_encoding.md R69). -/
def thermo (n : BitVec 4) : Pattern := (1#16 <<< n.toNat) - 1#16

/-- `(old & ~mask) | (new & mask)`: the masked update of one byte (20_memory.md R45). -/
def maskedUpdate (mask old new : Byte) : Byte := (old &&& ~~~mask) ||| (new &&& mask)

end Sys2Proof.Machine
end

