-- ==== Sys2Proof/Machine/Ops.lean ====
section
/-! DEFINITION. The shared operations: access to the named locations of 20_memory.md R40, the Bit-Pattern Encoder
(40_encoder.md), the Threshold Pattern Builder (41_threshold_builder.md), the Mode State Machine (42_mode_fsm.md),
the attract brightness (43_control_handler.md), reset (R141) and the dispatch of a handler (60_exceptions.md R168). -/

namespace Sys2Proof.Machine

/-! ### Ports -/

/-- The register of a port (10_state.md R15). -/
def Ports.get (ps : Ports) : Port → Byte
  | .b => ps.b
  | .c => ps.c
  | .d => ps.d
  | .e => ps.e

/-- The registers with one port written (10_state.md R15). -/
def Ports.set (ps : Ports) (p : Port) (v : Byte) : Ports :=
  match p with
  | .b => { ps with b := v }
  | .c => { ps with c := v }
  | .d => { ps with d := v }
  | .e => { ps with e := v }

/-- All four port registers at once, each from its port (20_memory.md R45: one step). -/
def Ports.ofFn (f : Port → Byte) : Ports := ⟨f .b, f .c, f .d, f .e⟩

/-! ### Named locations -/

/-- The named byte locations of 20_memory.md R40. `ROM.PIN` holds pins, not bytes, and is read by `romPin`. -/
inductive Loc where
  | buf (i : Fin 16)
  | port (p : Port)
  | adcL
  | adcH
  | btn
  | trig
  | gamma (i : Fin 16)
deriving DecidableEq, Repr

/-- The width of a location in bits (20_memory.md R40). -/
def Loc.width : Loc → Nat
  | .buf _ => 8
  | .port _ => 8
  | .adcL => 8
  | .adcH => 8
  | .btn => 1
  | .trig => 2
  | .gamma _ => 8

/-- Read one buffer entry (20_memory.md R40). -/
def readBuf (i : Fin 16) (s : State) : Byte := s.buf[i]

/-- Write one buffer entry (20_memory.md R40). -/
def writeBuf (i : Fin 16) (v : Byte) (s : State) : State := { s with buf := s.buf.set i v }

/-- Replace all 16 buffer entries in one step (43_control_handler.md R114). -/
def writeFrame (f : Fin 16 → Byte) (s : State) : State := { s with buf := Vector.ofFn f }

/-- Read a port register (20_memory.md R40). -/
def readPort (p : Port) (s : State) : Byte := s.ports.get p

/-- Write a port register (20_memory.md R40). -/
def writePort (p : Port) (v : Byte) (s : State) : State := { s with ports := s.ports.set p v }

/-- Read `ADC.L`: the converter latches the pair, so that the next read of `ADC.H` belongs to the same conversion
(20_memory.md R44). -/
def readAdcL (s : State) : Byte × State := (s.adcL, { s with adcLatch := some s.adcH })

/-- Read `ADC.H`: the latched byte if one is held; the read releases the latch (20_memory.md R44; PRESUMED G3, log 9). -/
def readAdcH (s : State) : Byte × State := (s.adcLatch.getD s.adcH, { s with adcLatch := none })

/-- `MemRead(space.addr, 1)`: the value of a named location, zero-extended to a byte, and the state after the read.
Only the converter's registers have a side effect (20_memory.md R41, R46). -/
def memRead (l : Loc) (s : State) : Byte × State :=
  match l with
  | .buf i => (readBuf i s, s)
  | .port p => (readPort p s, s)
  | .adcL => readAdcL s
  | .adcH => readAdcH s
  | .btn => ((BitVec.ofBool s.btnN).setWidth 8, s)
  | .trig => (s.adcTrig.setWidth 8, s)
  | .gamma i => (gamma[i], s)

/-- The value a read of a named location gives. -/
def peek (l : Loc) (s : State) : Byte := (memRead l s).1

/-- `MemWrite(space.addr, 1, v)`: `v` reduced to the location's width replaces its value (20_memory.md R41). `ROM` is
constant (20_memory.md R40): no rule writes it, and here a write leaves it (DESIGN CHOICE, log 11). -/
def memWrite (l : Loc) (v : Nat) (s : State) : State :=
  match l with
  | .buf i => writeBuf i (BitVec.ofNat 8 v) s
  | .port p => writePort p (BitVec.ofNat 8 v) s
  | .adcL => { s with adcL := BitVec.ofNat 8 v }
  | .adcH => { s with adcH := BitVec.ofNat 8 v }
  | .btn => { s with btnN := (BitVec.ofNat 1 v).getLsbD 0 }
  | .trig => { s with adcTrig := BitVec.ofNat 2 v }
  | .gamma _ => s

/-- Read `ROM.PIN.i` (20_memory.md R40). -/
def romPin (i : Fin 16) (s : State) : Pin := s.cfg.pinTable[i]

/-- Read the sample: `ADC.L` first, `ADC.H` second, always both (20_memory.md R44, R42). -/
def readSample (s : State) : Sample × State :=
  let (lo, s) := readAdcL s
  let (hi, s) := readAdcH s
  (combine hi lo, s)

/-! ### The Bit-Pattern Encoder -/

/-- `new_p`: on each display pin of port `p` the inverted bit of its LED, elsewhere 0 (40_encoder.md R80). -/
def portBits (t : Vector Pin 16) (P : Pattern) (p : Port) : Byte :=
  BitVec.ofFnLE fun n => (List.finRange 16).any fun i => t[i] = ⟨p, n⟩ && !P.getLsbD i

/-- `encode(P)` on the four port registers (40_encoder.md R80). -/
def encodePorts (t : Vector Pin 16) (P : Pattern) (ps : Ports) : Ports :=
  Ports.ofFn fun p => maskedUpdate (portMask t p) (ps.get p) (portBits t P p)

/-- `encode(P)` as a step on the state (40_encoder.md R80). -/
def encodePattern (P : Pattern) (s : State) : State := { s with ports := encodePorts s.cfg.pinTable P s.ports }

/-- `decode`: the pattern read back from the ports; it ignores every foreign bit (40_encoder.md R82). -/
def decodePorts (t : Vector Pin 16) (ps : Ports) : Pattern :=
  BitVec.ofFnLE fun i => !(ps.get t[i].port).getLsbD t[i].pin

/-! ### The Threshold Pattern Builder -/

/-- The comparator: `>`, or `>=` in the alternate revision (41_threshold_builder.md R90, R91). -/
def exceeds (inclusive : Bool) (v t : Byte) : Bool := if inclusive then t ≤ v else t < v

/-- `build_pat(T)`: bit `i` compares entry `i` with the threshold (41_threshold_builder.md R90). -/
def buildPattern (inclusive : Bool) (buf : Vector Byte 16) (t : Byte) : Pattern :=
  BitVec.ofFnLE fun i => exceeds inclusive buf[i] t

/-! ### The Mode State Machine -/

/-- `eff_mode`: the mode every rule acts on; the out-of-range value 3 reads as Attract (42_mode_fsm.md R100). -/
def effMode (m : BitVec 2) : Mode :=
  match m.toNat with
  | 0 => .direct
  | 1 => .vu
  | _ => .attract

/-- `next_mode`: the successor in the cycle Direct, VU, Attract (42_mode_fsm.md R101). -/
def nextMode : Mode → Mode
  | .direct => .vu
  | .vu => .attract
  | .attract => .direct

/-- `set_next_mode()`: mode and trigger configuration together (42_mode_fsm.md R103). -/
def setNextMode (s : State) : State :=
  let m := nextMode (effMode s.mode)
  { s with mode := modeCode m, adcTrig := trigCode (trigOf m) }

/-! ### The attract animation -/

/-- The circular distance of LED `i` from phase `ph` on a track of length `2^bits` (43_control_handler.md R113). -/
def attractDistance (bits : Nat) (i : Fin 16) (ph : Nat) : Nat :=
  let len := 2 ^ bits
  let pos := ledSpacing * i.val % len
  let a := (((pos : Int) - (ph : Int)) % (len : Int)).toNat
  min a (len - a)

/-- `attract_level(i, ph) = max(0, 255 - d)` (43_control_handler.md R113); the subtraction of natural numbers stops
at 0. -/
def attractLevel (bits : Nat) (i : Fin 16) (ph : Nat) : Byte :=
  BitVec.ofNat 8 (attractRange - attractDistance bits i ph)

/-! ### Reset and dispatch -/

/-- `RST`: the block's registers to their reset values; `btn_n`, the converter's registers and the foreign port bits
are the environment's and stay (46_environment_ops.md R141). -/
def resetBlock (s : State) : State :=
  { s with
    buf := gamma
    mode := modeCode s.cfg.bootMode
    adcTrig := trigCode (trigOf s.cfg.bootMode)
    debounce := 0#8
    slice := 0#8
    phase := 0#16
    ports := Ports.ofFn fun p => s.ports.get p ||| portMask s.cfg.pinTable p
    pend := ⟨false, false, false⟩
    gie := false }

/-- Taking an interrupt, the one shared operation (60_exceptions.md R167, R168): enabled iff `gie` and the source's
flag are set; it clears that flag and performs the handler, all in one step. Nothing is saved, `gie` does not change,
and the handler returns by ending its step (R170). A step that is not enabled does not exist. -/
def dispatch (src : Source) (handler : State → State) (s : State) : Host.Outcome State Fault Refusal :=
  if enabled s src then .next (handler (clearPending src s)) else .refused (.notEnabled src)

end Sys2Proof.Machine
end

