-- ==== Sys2Proof/Machine/Control.lean ====
section
/-! DEFINITION. The Periodic Control Handler, `ISRC` (43_control_handler.md). -/

namespace Sys2Proof.Machine

/-- Step 1, button and debounce: a press while the counter is zero changes the mode and arms the counter; otherwise a
nonzero counter is decremented (R111). -/
def buttonStep (s : State) : State :=
  if s.btnN = false ∧ s.debounce = 0#8 then { setNextMode s with debounce := debounceWindow }
  else if s.debounce ≠ 0#8 then { s with debounce := s.debounce - 1#8 }
  else s

/-- Step 2, the phase advance, in every mode (R112). -/
def advancePhase (s : State) : State :=
  { s with phase := BitVec.ofNat 16 ((s.phase.toNat + phaseInc) % 2 ^ s.cfg.phaseBits) }

/-- Step 2, the frame write, in Attract mode only (R113, R114). -/
def attractFrame (s : State) : State :=
  if effMode s.mode = .attract then
    writeFrame (fun i => attractLevel s.cfg.phaseBits i s.phase.toNat) s
  else s

/-- The control handler: button first, then the phase, then the frame of the mode and phase just written (R110, R115). -/
def controlHandler (s : State) : State := attractFrame (advancePhase (buttonStep s))

/-- `ISRC` (R110). -/
def execIsrc (s : State) : Host.Outcome State Fault Refusal := dispatch .control controlHandler s

end Sys2Proof.Machine
end

