-- ==== Sys2Proof/Machine/Environment.lean ====
section
/-! DEFINITION. The meanings of the nine environment operations (46_environment_ops.md). Each is always enabled. -/

namespace Sys2Proof.Machine

/-- `NOP` reads and writes nothing (R140). -/
def execNop (s : State) : Host.Outcome State Fault Refusal := .next s

/-- `RST` (R141). -/
def execRst (s : State) : Host.Outcome State Fault Refusal := .next (resetBlock s)

/-- `START`: `gie <- 1` (R142). -/
def execStart (s : State) : Host.Outcome State Fault Refusal := .next (setGie true s)

/-- `STOP`: `gie <- 0` (R143). -/
def execStop (s : State) : Host.Outcome State Fault Refusal := .next (setGie false s)

/-- `TICKC`: `pend.c <- 1` (R144). -/
def execTickc (s : State) : Host.Outcome State Fault Refusal := .next (raiseEvent .control s)

/-- `TICKR`: `pend.r <- 1` (R145). -/
def execTickr (s : State) : Host.Outcome State Fault Refusal := .next (raiseEvent .refresh s)

/-- `ADCDONE v`: `adc.H <- v[15:8]`, `adc.L <- v[7:0]`, `pend.s <- 1` (R146). -/
def execAdcdone (v : Sample) (s : State) : Host.Outcome State Fault Refusal :=
  .next (raiseEvent .sample { s with adcH := highByte v, adcL := lowByte v })

/-- `BTN level`: `btn_n <- level` (R147). -/
def execBtn (level : Bool) (s : State) : Host.Outcome State Fault Refusal := .next { s with btnN := level }

/-- `PINWR p, v`: `port[p] <- (port[p] & MASK[p]) | (v & ~MASK[p])` (R148). -/
def execPinwr (p : Port) (v : Byte) (s : State) : Host.Outcome State Fault Refusal :=
  .next (writePort p (maskedUpdate (~~~portMask s.cfg.pinTable p) (readPort p s) v) s)

end Sys2Proof.Machine
end

