-- ==== Sys2Proof/Machine/Refresh.lean ====
section
/-! DEFINITION. The Periodic Display-Refresh Handler, `ISRR` (44_refresh_handler.md). -/

namespace Sys2Proof.Machine

/-- The threshold advance, modulo 256, in every mode (R125). -/
def advanceSlice (s : State) : State := { s with slice := s.slice + threshStep }

/-- Does the refresh handler drive the ports: in Attract mode, or in every mode when it is not gated (R125 to R127)? -/
def drivesPorts (s : State) : Bool := !s.cfg.refreshGated || effMode s.mode = .attract

/-- Build the pattern at the current threshold and write it to the ports (R125). -/
def showBuffer (s : State) : State := encodePattern (buildPattern s.cfg.cmpInclusive s.buf s.slice) s

/-- The refresh handler: the advance comes before the comparison (R125). -/
def refreshHandler (s : State) : State :=
  let s := advanceSlice s
  if drivesPorts s then showBuffer s else s

/-- `ISRR` (R125). -/
def execIsrr (s : State) : Host.Outcome State Fault Refusal := dispatch .refresh refreshHandler s

end Sys2Proof.Machine
end

