-- ==== Sys2Proof/Machine/Sample.lean ====
section
/-! DEFINITION. The Analog-Sample Handler, `ISRS` (45_sample_handler.md). -/

namespace Sys2Proof.Machine

/-- Read the sample, quantise it with the given shift and write its bar to the ports, past the buffer and the builder
(R130, R134). -/
def showSample (shift : Nat) (s : State) : State :=
  let (v, s) := readSample s
  encodePattern (thermo (quantize shift v)) s

/-- The sample handler: nothing in Attract mode, not even a read of the converter (R133); otherwise the bar of the
sample, with the mode's shift (R130, R131). -/
def sampleHandler (s : State) : State :=
  match effMode s.mode with
  | .direct => showSample s.cfg.shiftDirect s
  | .vu => showSample s.cfg.shiftVu s
  | .attract => s

/-- `ISRS` (R130). -/
def execIsrs (s : State) : Host.Outcome State Fault Refusal := dispatch .sample sampleHandler s

end Sys2Proof.Machine
end

