-- ==== Sys2Proof/Machine/Dispatch.lean ====
section
/-! DEFINITION. One arm per operation of spec/opcode_table.json. -/

namespace Sys2Proof.Machine

def exec (i : Instr) (s : State) : Host.Outcome State Fault Refusal :=
  match i with
  | .nop => Sys2Proof.Machine.execNop s
  | .rst => Sys2Proof.Machine.execRst s
  | .start => Sys2Proof.Machine.execStart s
  | .stop => Sys2Proof.Machine.execStop s
  | .tickc => Sys2Proof.Machine.execTickc s
  | .tickr => Sys2Proof.Machine.execTickr s
  | .adcdone v => Sys2Proof.Machine.execAdcdone v s
  | .btn level => Sys2Proof.Machine.execBtn level s
  | .pinwr p v => Sys2Proof.Machine.execPinwr p v s
  | .isrc => Sys2Proof.Machine.execIsrc s
  | .isrr => Sys2Proof.Machine.execIsrr s
  | .isrs => Sys2Proof.Machine.execIsrs s

end Sys2Proof.Machine
end

