-- ==== Sys2Proof/Machine/Schedule.lean ====
section
/-! DEFINITION. What happens next: the schedule of stimulus words (30_encoding.md R60), the dispatcher's own choice
when the schedule is exhausted (60_exceptions.md R169), and placing a schedule from outside (46_environment_ops.md R149). -/

namespace Sys2Proof.Machine

/-- What the next step performs. -/
inductive NextOp where
  /-- Perform `i` from state `s`. -/
  | perform (i : Instr) (s : State)
  /-- Nothing is scheduled and no handler is enabled (60_exceptions.md R167: the dispatcher is idle). -/
  | idle
  /-- There is no step. -/
  | refuse (r : Refusal)
deriving DecidableEq, Repr

/-- Which of the enabled sources the dispatcher takes: the only one, or one that a free value picks
(60_exceptions.md R169; log 4). -/
def pickSource : List Source → Nat → Option Source
  | [], _ => none
  | [x], _ => some x
  | x :: y :: rest, n => (x :: y :: rest)[n % (rest.length + 2)]?

/-- The next operation: the head of the schedule if there is one; otherwise a handler the block owes (R167, R169), any
of the enabled ones; otherwise none. A configuration outside 00_scope.md R6 has no step. -/
def nextOp (s : State) : NextOp :=
  if configOk s.cfg then
    match s.schedule with
    | w :: rest =>
      match decode w with
      | .ok i => .perform i { s with schedule := rest }
      | .error _ => .refuse (.illegalWord w)
    | [] =>
      match pickSource (enabledSources s) (Config.dispatchChoice s.draws) with
      | some src => .perform src.handler { s with draws := s.draws + 1 }
      | none => .idle
  else .refuse .badConfig

/-- Put one word before the schedule, so that the next step fetches it. -/
def pushWord (w : Word) (s : State) : State := { s with schedule := w :: s.schedule }

/-- What selects a handler is its pending flag and the global enable (10_state.md R24): both set for a dispatcher
operation, nothing changed for an environment operation (log 2). -/
def selectHandler (i : Instr) (s : State) : State :=
  match i.served with
  | some src => setGie true (raiseEvent src s)
  | none => s

/-- Put one word where the next step fetches it, and select its handler if it is a dispatcher operation (log 1, 2). -/
def placeWord (w : Word) (s : State) : State :=
  match decode w with
  | .ok i => pushWord w (selectHandler i s)
  | .error _ => pushWord w s

/-- Is a stimulus word one of the twelve operations (30_encoding.md R63)? -/
def legalWord (w : Word) : Bool :=
  match decode w with
  | .ok _ => true
  | .error _ => false

/-- The first illegal word of a schedule. -/
def firstIllegal (ws : List Word) : Option Word := ws.find? fun w => !legalWord w

/-- Place a schedule from outside the machine: one that holds an illegal word is refused whole, and no state changes
(46_environment_ops.md R149). -/
def placeSchedule (ws : List Word) (s : State) : Host.Outcome State Fault Refusal :=
  match firstIllegal ws with
  | some w => .refused (.illegalWord w)
  | none => .next { s with schedule := ws }

end Sys2Proof.Machine
end

