-- ==== Sys2Proof/Machine/Step.lean ====
section
/-! DEFINITION. One step of the block. -/

namespace Sys2Proof.Machine

/-- One atomic step (00_scope.md R8): perform the next operation, or idle, or refuse. -/
def step (s : State) : Host.Outcome State Fault Refusal :=
  match nextOp s with
  | .perform i t => exec i t
  | .idle => .next s
  | .refuse r => .refused r

/-- `s` with a word, its bits numbered as spec/opcode_table.json numbers them, put where `step` takes its next operation:
at the head of the schedule. For a dispatcher operation this also sets what selects its handler, `gie` and its pending
flag (log 1, 2). -/
def State.withFetchWord (s : State) (nbits w : Nat) : State := placeWord (BitVec.ofNat 24 (w % 2 ^ nbits)) s

end Sys2Proof.Machine
end

