-- ==== Sys2Proof/Machine/Text.lean ====
section
/-! DEFINITION. The pseudo-operations and the text form of a schedule (30_encoding.md R64). Lexical details the rule
leaves open are in log 16. -/

namespace Sys2Proof.Machine

/-- The pseudo-operations (30_encoding.md R64). -/
inductive Pseudo where
  | press
  | release
  | ct
  | rt
  | smp (v : Sample)
  | ctTimes (n : Nat)
  | rtTimes (n : Nat)
deriving DecidableEq, Repr

/-- The operations a pseudo-operation stands for (30_encoding.md R64). -/
def Pseudo.expand : Pseudo → List Instr
  | .press => [.btn false]
  | .release => [.btn true]
  | .ct => [.tickc, .isrc]
  | .rt => [.tickr, .isrr]
  | .smp v => [.adcdone v, .isrs]
  | .ctTimes n => (List.replicate n [Instr.tickc, Instr.isrc]).flatten
  | .rtTimes n => (List.replicate n [Instr.tickr, Instr.isrr]).flatten

/-- The tokens of a line. -/
inductive Token where
  | word (cs : List Char)
  | comma
  | star
deriving DecidableEq, Repr

/-- Close the word being read (its characters stand in reverse) before the tokens that follow. -/
def closeWord (acc : List Char) (rest : List Token) : List Token :=
  if acc.isEmpty then rest else .word acc.reverse :: rest

/-- The tokens of a line; `;` starts a comment (30_encoding.md R64). -/
def tokens : List Char → List Char → Option (List Token)
  | [], acc => some (closeWord acc [])
  | c :: cs, acc =>
    if c = ';' then some (closeWord acc [])
    else if c = ' ' ∨ c = '\t' ∨ c = '\r' then (tokens cs []).map (closeWord acc)
    else if c = ',' then (tokens cs []).map fun ts => closeWord acc (.comma :: ts)
    else if c = '*' then (tokens cs []).map fun ts => closeWord acc (.star :: ts)
    else if c.isAlphanum then tokens cs (c :: acc)
    else none

/-- The value of a digit in a base up to 16. -/
def digitValue (base : Nat) (c : Char) : Option Nat :=
  let v :=
    if c.isDigit then c.toNat - '0'.toNat
    else if 'a' ≤ c ∧ c ≤ 'f' then c.toNat - 'a'.toNat + 10
    else if 'A' ≤ c ∧ c ≤ 'F' then c.toNat - 'A'.toNat + 10
    else base
  if v < base then some v else none

/-- The value of digits in a base, most significant first, after those already read. -/
def digitsValue (base : Nat) : Nat → List Char → Option Nat
  | acc, [] => some acc
  | acc, c :: cs => (digitValue base c).bind fun d => digitsValue base (acc * base + d) cs

/-- A number, decimal or `0x` hexadecimal (30_encoding.md R64). -/
def number : List Char → Option Nat
  | [] => none
  | '0' :: 'x' :: c :: cs => digitsValue 16 0 (c :: cs)
  | c :: cs => digitsValue 10 0 (c :: cs)

/-- A number below a bound. -/
def numberBelow (bound : Nat) (cs : List Char) : Option Nat :=
  (number cs).bind fun n => if n < bound then some n else none

/-- A port by its letter (30_encoding.md R64). -/
def portOfLetter : List Char → Option Port
  | ['B'] => some .b
  | ['C'] => some .c
  | ['D'] => some .d
  | ['E'] => some .e
  | _ => none

/-- The lines that are a mnemonic alone (30_encoding.md R62, R64). -/
def bareLine (m : List Char) : Option (List Instr) :=
  if m = "NOP".toList then some [.nop]
  else if m = "RST".toList then some [.rst]
  else if m = "START".toList then some [.start]
  else if m = "STOP".toList then some [.stop]
  else if m = "TICKC".toList then some [.tickc]
  else if m = "TICKR".toList then some [.tickr]
  else if m = "ISRC".toList then some [.isrc]
  else if m = "ISRR".toList then some [.isrr]
  else if m = "ISRS".toList then some [.isrs]
  else if m = "PRESS".toList then some (Pseudo.expand .press)
  else if m = "RELEASE".toList then some (Pseudo.expand .release)
  else if m = "CT".toList then some (Pseudo.expand .ct)
  else if m = "RT".toList then some (Pseudo.expand .rt)
  else none

/-- The lines with one number (30_encoding.md R62, R64). -/
def unaryLine (m arg : List Char) : Option (List Instr) :=
  if m = "ADCDONE".toList then (numberBelow 65536 arg).map fun n => [.adcdone (BitVec.ofNat 16 n)]
  else if m = "SMP".toList then (numberBelow 65536 arg).map fun n => Pseudo.expand (.smp (BitVec.ofNat 16 n))
  else if m = "BTN".toList then (numberBelow 2 arg).map fun n => [.btn (n == 1)]
  else none

/-- `PINWR p, v` (30_encoding.md R62, R64). -/
def pinwrLine (m p v : List Char) : Option (List Instr) :=
  if m = "PINWR".toList then
    (portOfLetter p).bind fun p => (numberBelow 256 v).map fun n => [.pinwr p (BitVec.ofNat 8 n)]
  else none

/-- `CT*n` and `RT*n` (30_encoding.md R64). -/
def repeatedLine (m n : List Char) : Option (List Instr) :=
  if m = "CT".toList then (number n).map fun n => Pseudo.expand (.ctTimes n)
  else if m = "RT".toList then (number n).map fun n => Pseudo.expand (.rtTimes n)
  else none

/-- The operations of one line; an empty line has none. -/
def lineOps : List Token → Option (List Instr)
  | [] => some []
  | [.word m] => bareLine m
  | [.word m, .word arg] => unaryLine m arg
  | [.word m, .word p, .comma, .word v] => pinwrLine m p v
  | [.word m, .star, .word n] => repeatedLine m n
  | _ => none

/-- The lines of a text; the characters of the line being read stand in reverse. -/
def textLines : List Char → List Char → List (List Char)
  | [], acc => [acc.reverse]
  | c :: cs, acc => if c = '\n' then acc.reverse :: textLines cs [] else textLines cs (c :: acc)

/-- The operations of some lines, in order. -/
def linesOps : List (List Char) → Option (List Instr)
  | [] => some []
  | l :: ls => (tokens l []).bind fun ts => (lineOps ts).bind fun is => (linesOps ls).map fun rest => is ++ rest

/-- The operations of a schedule in text form (30_encoding.md R64). -/
def assemble (text : String) : Option (List Instr) := linesOps (textLines text.toList [])

/-- The stimulus words of a schedule in text form. -/
def assembleWords (text : String) : Option (List Word) := (assemble text).map fun is => is.map encode

end Sys2Proof.Machine
end

