-- ==== Sys2Proof/Machine/Wires.lean ====
section
/-! DEFINITION. The wire-level view of 30_encoding.md R71: which operation an input wire performs, and what the
outside observes (00_scope.md R8). -/

namespace Sys2Proof.Machine

/-- One activity on an input wire (30_encoding.md R71). No clock is named, so one activity is one operation; the
converter's bytes come with its pulse (DESIGN CHOICE, log 15). -/
inductive Wire where
  /-- `rst` performs `RST`. -/
  | rst
  /-- A pulse of `ev_ctrl` performs `TICKC`. -/
  | evCtrl
  /-- A pulse of `ev_refresh` performs `TICKR`. -/
  | evRefresh
  /-- A pulse of `ev_sample` with the result on `adc_h`, `adc_l` performs `ADCDONE`. -/
  | evSample (adcH adcL : Byte)
  /-- A level on `btn_n` performs `BTN`. -/
  | btnN (level : Bool)
  /-- `gie_set` performs `START`. -/
  | gieSet
  /-- `gie_clr` performs `STOP`. -/
  | gieClr
  /-- The foreign bits of a port perform `PINWR`. -/
  | foreignBits (p : Port) (v : Byte)
deriving DecidableEq, Repr

/-- The operation a wire performs (30_encoding.md R71). -/
def Wire.op : Wire → Instr
  | .rst => .rst
  | .evCtrl => .tickc
  | .evRefresh => .tickr
  | .evSample hi lo => .adcdone (combine hi lo)
  | .btnN level => .btn level
  | .gieSet => .start
  | .gieClr => .stop
  | .foreignBits p v => .pinwr p v

/-- The output wires (30_encoding.md R71), which are all that an outside observer sees (00_scope.md R8). -/
structure Outputs where
  portB : Byte
  portC : Byte
  portD : Byte
  portE : Byte
  adcTrig : BitVec 2
deriving DecidableEq, Repr

/-- What the outside observes of a state (00_scope.md R8). -/
def outputs (s : State) : Outputs := ⟨s.ports.b, s.ports.c, s.ports.d, s.ports.e, s.adcTrig⟩

end Sys2Proof.Machine
end

