-- ==== Sys2Proof/Safety.lean ====
section
/-! DEFINITION. The terms claims use: performing several operations, the step relation with every choice open
(60_exceptions.md R169), the invariant of the registers, which locations an operation stores to, and the premises on
the environment of 46_environment_ops.md R150 as predicates on a trace. -/

namespace Sys2Proof.Machine

/-- Perform operations in order from a state, stopping at the first that has no step (30_encoding.md R60). -/
def performAll : List Instr → State → Host.Outcome State Fault Refusal
  | [], s => .next s
  | i :: is, s =>
    match exec i s with
    | .next t => performAll is t
    | .fault r => .fault r
    | .refused r => .refused r

/-- The step relation with the choice left open: any operation that has a step (60_exceptions.md R169). -/
def StepRel (s t : State) : Prop := ∃ i, exec i s = .next t

/-- What the rules say holds of the registers in every state a run reaches from reset: `mode` is legal (10_state.md R11),
the trigger follows the mode (R16), `debounce` is at most 16 (R12), `slice` is a multiple of 16 (R13), `phase` is below
`2^PHASE_BITS` (R14) and the converter's latch is empty between steps (R25, 20_memory.md R44). -/
structure RegistersOk (s : State) : Prop where
  mode_legal : s.mode ≠ 3#2
  trig_follows_mode : s.adcTrig = trigCode (trigOf (effMode s.mode))
  debounce_le : s.debounce.toNat ≤ 16
  slice_multiple : s.slice.toNat % 16 = 0
  phase_lt : s.phase.toNat < 2 ^ s.cfg.phaseBits
  latch_empty : s.adcLatch = none

/-- A bit of a port register that drives a display LED (10_state.md R15). -/
def IsDisplayBit (t : Vector Pin 16) (p : Port) (n : Fin 8) : Prop := ∃ i : Fin 16, t[i] = ⟨p, n⟩

/-- Is the button pressed with the debounce counter at zero (43_control_handler.md R111)? -/
def qualifiedPress (s : State) : Bool := !s.btnN && s.debounce = 0#8

/-- The mode that the button step of a control handler step leaves (43_control_handler.md R111, R115). -/
def modeAfterButton (s : State) : Mode := if qualifiedPress s then nextMode (effMode s.mode) else effMode s.mode

/-- A location of the space BUF (20_memory.md R40). -/
def Loc.inBuf : Loc → Bool
  | .buf _ => true
  | .port _ => false
  | .adcL => false
  | .adcH => false
  | .btn => false
  | .trig => false
  | .gamma _ => false

/-- A location of the space PORT (20_memory.md R40). -/
def Loc.inPorts : Loc → Bool
  | .buf _ => false
  | .port _ => true
  | .adcL => false
  | .adcH => false
  | .btn => false
  | .trig => false
  | .gamma _ => false

/-- The locations an operation stores to from a state (20_memory.md R40; the "written by" column of 10_state.md section 1). -/
def storesTo (i : Instr) (s : State) (l : Loc) : Bool :=
  match i with
  | .nop => false
  | .rst => l.inBuf || l.inPorts || l = .trig
  | .start => false
  | .stop => false
  | .tickc => false
  | .tickr => false
  | .adcdone _ => l = .adcL || l = .adcH
  | .btn _ => l = .btn
  | .pinwr p _ => l = .port p
  | .isrc => (qualifiedPress s && l = .trig) || (modeAfterButton s = .attract && l.inBuf)
  | .isrr => drivesPorts s && l.inPorts
  | .isrs => effMode s.mode ≠ .attract && l.inPorts

/-- The source whose event an operation is (60_exceptions.md R163). -/
def eventOf : Instr → Option Source
  | .tickc => some .control
  | .tickr => some .refresh
  | .adcdone _ => some .sample
  | .nop => none
  | .rst => none
  | .start => none
  | .stop => none
  | .btn _ => none
  | .pinwr _ _ => none
  | .isrc => none
  | .isrr => none
  | .isrs => none

/-- A flag as a number. -/
def asNat (b : Bool) : Nat := if b then 1 else 0

/-- Each operation of a run with the state it was performed from. -/
def traceOf : List Instr → State → List (State × Instr)
  | [], _ => []
  | i :: is, s =>
    match exec i s with
    | .next t => (s, i) :: traceOf is t
    | .fault _ => []
    | .refused _ => []

/-- Does the converter generate events in this state (46_environment_ops.md R150 (a))? -/
def sampling (s : State) : Bool := trigMeaning s.adcTrig ≠ .disabled

/-- Premise R150 (a): `ADCDONE` only while the trigger is not Disabled, but for at most one conversion that was in
progress when it became Disabled (`inProgress`). Whether one was in progress is no state of the block: here one may have
been whenever the trigger was on (DESIGN CHOICE, log 19). -/
def converterObeys : Bool → List (State × Instr) → Bool
  | _, [] => true
  | inProgress, (s, .adcdone _) :: rest => (sampling s || inProgress) && converterObeys (sampling s) rest
  | inProgress, (s, _) :: rest => converterObeys (sampling s || inProgress) rest

/-- Premise R150 (b): while the trigger is TimerDriven there is at most one `ADCDONE` per `TICKC`. The rule does not say
which overflows count. Here, in every prefix of each stretch with that trigger, the `ADCDONE` are at most the `TICKC` of
the stretch: an unused overflow stays (`credit`), and one from before the stretch does not count (DESIGN CHOICE, log 19). -/
def oneConversionPerTick : Nat → List (State × Instr) → Bool
  | _, [] => true
  | credit, (s, i) :: rest =>
    if trigMeaning s.adcTrig = .timerDriven then
      match eventOf i with
      | some .control => oneConversionPerTick (credit + 1) rest
      | some .sample => decide (0 < credit) && oneConversionPerTick (credit - 1) rest
      | some .refresh => oneConversionPerTick credit rest
      | none => oneConversionPerTick credit rest
    else oneConversionPerTick 0 rest

/-- Premise R150 (d), and 60_exceptions.md R166: no event arrives while its flag is set. -/
def noOverrun (trace : List (State × Instr)) : Bool :=
  trace.all fun (s, i) =>
    match eventOf i with
    | some src => !s.pend.get src
    | none => true

/-- A result of a converter of resolution `SAMPLE_WIDTH`, right-aligned; the block does not check it
(46_environment_ops.md R146). -/
def sampleInRange (v : Sample) : Bool := v.toNat < 2 ^ sampleWidth

/-- In how many of `n` refresh ticks, each raised and served at once, is an LED lit after the tick? None if a tick has
no step (41_threshold_builder.md R94). -/
def litCount (led : Fin 16) : Nat → State → Option Nat
  | 0, _ => some 0
  | n + 1, s =>
    match performAll (Pseudo.expand .rt) s with
    | .next t => (litCount led n t).map fun k => k + asNat ((decodePorts t.cfg.pinTable t.ports).getLsbD led)
    | .fault _ => none
    | .refused _ => none

end Sys2Proof.Machine
end

