-- ==== Sys2Proof/Certificates/Slice0/Obligations.lean ====
section
/-! DEFINITION. The statements for the provers. Each docstring names the rule or section of spec/ it formalises.
`s.gie = true` with `s.pend.c = true` (`.r`, `.s`) is exactly the enabling condition of a handler step
(60_exceptions.md R167). -/

open Sys2Proof Sys2Proof.Machine

/-! ### Stimulus words -/

/-- Decoding the encoder's word gives the operation back, for every operation and every operand (30_encoding.md
sections 1 to 3). -/
def Obligations.DecodeOfEncodeIsTheOperation : Prop :=
  ∀ i : Instr, decode (encode i) = .ok i

/-- A legal word is the encoder's word of the operation it decodes to: no two words mean the same, and no bit of a
legal word is ignored (30_encoding.md sections 2 and 4). -/
def Obligations.EncodeOfDecodeIsTheWord : Prop :=
  ∀ (w : Word) (i : Instr), decode w = .ok i → encode i = w

/-- A word decodes to a row's operation iff it matches the row's mask and pattern, and a word that matches no row is
illegal (30_encoding.md sections 3 and 4). -/
def Obligations.LegalWordsAreThoseOfTheOpcodeRows : Prop :=
  (∀ (w : Word) (r : OpcodeRow), r ∈ opcodeTable →
    (r.covers w = true ↔ ∃ i, decode w = .ok i ∧ i.mnemonic = r.mnemonic)) ∧
  (∀ w : Word, (∃ e, decode w = .error e) ↔ ∀ r ∈ opcodeTable, r.covers w = false)

/-- Words of 95_test_vectors.md section 2.9 and their operations. -/
def Obligations.WordsOfTheOpcodeMapDecode : Prop :=
  decode 0x000000#24 = .ok .nop ∧ decode 0x60FFFF#24 = .ok (.adcdone 0xFFFF#16) ∧
  decode 0x700001#24 = .ok (.btn true) ∧ decode 0x8300FF#24 = .ok (.pinwr .e 0xFF#8) ∧
  decode 0xB00000#24 = .ok .isrs ∧ decode 0x820003#24 = .ok (.pinwr .d 0x03#8) ∧
  decode 0x000001#24 = .error .dataNotZero ∧ decode 0x610000#24 = .error .selNotZero ∧
  decode 0x840000#24 = .error .selNotZero ∧ decode 0xC00000#24 = .error .reservedOp

/-! ### Environment operations -/

/-- R140: `NOP` and its word. -/
def Obligations.NopChangesNothing : Prop :=
  (∀ s : State, exec .nop s = .next s) ∧ decode 0x000000#24 = .ok .nop

/-- R141: `RST` in any state sets the block's registers, keeps the foreign port bits and the environment's inputs, and
its worked example. -/
def Obligations.RstSetsTheBlockRegisters : Prop :=
  (∀ s : State, ∃ t, exec .rst s = .next t ∧
    t = { s with buf := t.buf, mode := t.mode, adcTrig := t.adcTrig, debounce := 0#8, slice := 0#8, phase := 0#16,
                 ports := t.ports, pend := ⟨false, false, false⟩, gie := false } ∧
    t.buf = #v[0#8, 1#8, 4#8, 9#8, 16#8, 25#8, 36#8, 49#8, 64#8, 81#8, 100#8, 121#8, 144#8, 169#8, 196#8, 255#8] ∧
    (s.cfg.bootMode = .attract → t.mode = 2#2 ∧ t.adcTrig = 0#2) ∧
    (s.cfg.bootMode = .direct → t.mode = 0#2 ∧ t.adcTrig = 1#2) ∧
    (s.cfg.bootMode = .vu → t.mode = 1#2 ∧ t.adcTrig = 2#2) ∧
    (∀ (p : Port) (n : Fin 8), (t.ports.get p).getLsbD n = true ↔
      IsDisplayBit s.cfg.pinTable p n ∨ (s.ports.get p).getLsbD n = true) ∧
    (s.cfg.pinTable = boardPinTable → (∀ p, s.ports.get p &&& ~~~portMask boardPinTable p = 0#8) →
      t.ports = ⟨0x03#8, 0x3C#8, 0xFC#8, 0x0F#8⟩ ∧ decodePorts boardPinTable t.ports = 0#16)) ∧
  State.reset.btnN = true ∧ decode 0x100000#24 = .ok .rst

/-- R142: `START`, its idempotence, and its example. -/
def Obligations.StartEnablesPreemption : Prop :=
  (∀ s : State, exec .start s = .next { s with gie := true } ∧
    (∀ src, s.pend.get src = true → ∃ t, exec (Source.handler src) { s with gie := true } = .next t) ∧
    performAll [.start, .start] s = performAll [.start] s ∧
    ∃ t u, performAll [.rst, .tickr, .start] s = .next t ∧ exec .isrr t = .next u) ∧
  decode 0x200000#24 = .ok .start

/-- R143: `STOP`; no handler step until the next `START`, while events still set their flags; idempotence; the example. -/
def Obligations.StopDisablesPreemptionUntilStart : Prop :=
  (∀ s : State, exec .stop s = .next { s with gie := false } ∧ performAll [.stop, .stop] s = performAll [.stop] s ∧
    ∃ t u, performAll [.stop, .tickc, .tickc, .start] s = .next t ∧ t.pend.c = true ∧ exec .isrc t = .next u ∧
      ∀ v, exec .isrc u ≠ .next v) ∧
  (∀ (s t : State) (ops : List Instr), s.gie = false → Instr.start ∉ ops → performAll ops s = .next t →
    t.gie = false ∧ ∀ i ∈ ops, i.served = none) ∧
  (∀ s : State, s.gie = false →
    (∃ t, exec .tickc s = .next t ∧ t.pend.c = true) ∧ (∃ t, exec .tickr s = .next t ∧ t.pend.r = true) ∧
    (∀ v, ∃ t, exec (.adcdone v) s = .next t ∧ t.pend.s = true)) ∧
  decode 0x300000#24 = .ok .stop

/-- R144 and R145: `TICKC` sets `pend.c`, `TICKR` sets `pend.r`, merged if set already, and nothing else. -/
def Obligations.TicksSetTheirFlags : Prop :=
  (∀ s : State, exec .tickc s = .next { s with pend := ⟨true, s.pend.r, s.pend.s⟩ } ∧
    exec .tickr s = .next { s with pend := ⟨s.pend.c, true, s.pend.s⟩ }) ∧
  decode 0x400000#24 = .ok .tickc ∧ decode 0x500000#24 = .ok .tickr

/-- R146: `ADCDONE v` writes both result registers and `pend.s` and nothing else, for every 16-bit `v`; its example. -/
def Obligations.AdcdoneDeliversTheResult : Prop :=
  (∀ (s : State) (v : Sample), ∃ hi lo : Byte,
    exec (.adcdone v) s = .next { s with adcH := hi, adcL := lo, pend := ⟨s.pend.c, s.pend.r, true⟩ } ∧
    hi.toNat = v.toNat / 256 ∧ lo.toNat = v.toNat % 256) ∧
  (∀ s : State, exec (.adcdone 0x0155#16) s =
    .next { s with adcH := 0x01#8, adcL := 0x55#8, pend := ⟨s.pend.c, s.pend.r, true⟩ }) ∧
  (∀ v : Sample, decode (0x600000#24 ||| v.setWidth 24) = .ok (.adcdone v))

/-- R147: `BTN level` drives the pin and nothing else; of several `BTN` only the last matters; its example. -/
def Obligations.BtnDrivesThePin : Prop :=
  (∀ (s : State) (level : Bool), exec (.btn level) s = .next { s with btnN := level }) ∧
  (∀ (s : State) (levels : List Bool) (level : Bool),
    performAll (levels.map Instr.btn ++ [.btn level]) s = .next { s with btnN := level }) ∧
  (∀ s : State, s.btnN = true → performAll [.btn false, .btn true, .isrc] s = exec .isrc s) ∧
  decode 0x700000#24 = .ok (.btn false) ∧ decode 0x700001#24 = .ok (.btn true)

/-- R148: `PINWR p, v` writes the foreign bits of port `p` and nothing else; its example on the board's pins; and who changes
a port bit at all: a display bit the encoder's two callers and `RST`, a foreign bit `PINWR` to its port. -/
def Obligations.PinwrWritesOnlyForeignBits : Prop :=
  (∀ (s : State) (p : Port) (v : Byte), ∃ x : Byte,
    exec (.pinwr p v) s = .next { s with ports := s.ports.set p x } ∧
    ∀ n : Fin 8, (IsDisplayBit s.cfg.pinTable p n → x.getLsbD n = (s.ports.get p).getLsbD n) ∧
      (¬ IsDisplayBit s.cfg.pinTable p n → x.getLsbD n = v.getLsbD n)) ∧
  (∀ s : State, s.cfg.pinTable = boardPinTable → s.ports.d = 0xFC#8 →
    exec (.pinwr .d 0x01#8) s = .next { s with ports := { s.ports with d := 0xFD#8 } } ∧
    exec (.pinwr .d 0xFF#8) s = .next { s with ports := { s.ports with d := 0xFF#8 } } ∧
    exec (.pinwr .d 0x00#8) s = .next { s with ports := { s.ports with d := 0xFC#8 } }) ∧
  (∀ (i : Instr) (s t : State) (p : Port) (n : Fin 8), exec i s = .next t →
    (t.ports.get p).getLsbD n ≠ (s.ports.get p).getLsbD n →
    (IsDisplayBit s.cfg.pinTable p n ∧ (i = .rst ∨ i = .isrr ∨ i = .isrs)) ∨
    (¬ IsDisplayBit s.cfg.pinTable p n ∧ ∃ v, i = .pinwr p v)) ∧
  (∀ v : Byte, decode (0x800000#24 ||| v.setWidth 24) = .ok (.pinwr .b v) ∧
    decode (0x810000#24 ||| v.setWidth 24) = .ok (.pinwr .c v) ∧
    decode (0x820000#24 ||| v.setWidth 24) = .ok (.pinwr .d v) ∧
    decode (0x830000#24 ||| v.setWidth 24) = .ok (.pinwr .e v))

/-! ### Events and dispatch -/

/-- R165: an event sets its flag in every state, and a flag stays set until its handler is dispatched or until `RST`. -/
def Obligations.FlagWaitsForItsHandler : Prop :=
  (∀ (i : Instr) (src : Source) (s : State), eventOf i = some src → ∃ t, exec i s = .next t ∧ t.pend.get src = true) ∧
  (∀ (i : Instr) (src : Source) (s t : State), exec i s = .next t → s.pend.get src = true → i ≠ src.handler → i ≠ .rst →
    t.pend.get src = true)

/-- Merging (60_exceptions.md section 2) and the clearing by dispatch (section 3), counted over a whole run without `RST`: handler steps of a source never outnumber its events (with the flag set
at the start counted as one), and when no event arrives while its flag is set, none is lost either. -/
def Obligations.EventsMergeAndAreNeverQueued : Prop :=
  ∀ (ops : List Instr) (s t : State) (src : Source), Instr.rst ∉ ops → performAll ops s = .next t →
    ops.count src.handler + asNat (t.pend.get src) ≤ ops.countP (fun i => eventOf i = some src) + asNat (s.pend.get src) ∧
    (noOverrun (traceOf ops s) = true →
      ops.count src.handler + asNat (t.pend.get src) = ops.countP (fun i => eventOf i = some src) + asNat (s.pend.get src))

/-- R167: the handler step of a source exists iff `gie = 1` and its flag is set; the environment can always act; a state
with `gie = 1` and a flag set owes a handler step. R171: where it is enabled it yields exactly one next state. -/
def Obligations.HandlerStepExistsIffEnabled : Prop :=
  (∀ (s : State) (src : Source), (∃ t, exec src.handler s = .next t) ↔ s.gie = true ∧ s.pend.get src = true) ∧
  (∀ (s : State) (i : Instr), i.served = none → ∃ t, exec i s = .next t) ∧
  (∀ s : State, s.gie = true → (s.pend.c = true ∨ s.pend.r = true ∨ s.pend.s = true) →
    ∃ src t, exec (Source.handler src) s = .next t) ∧
  (∀ (s : State) (src : Source), enabled s src = true → ∃! t, exec src.handler s = .next t)

/-- 60_exceptions.md section 3: dispatch clears its own flag, no other, and leaves `gie`, the button, the converter's
result registers and the configuration as they were. -/
def Obligations.DispatchClearsOnlyItsOwnFlag : Prop :=
  ∀ (s : State) (src : Source), s.gie = true → s.pend.get src = true → ∃ t, exec src.handler s = .next t ∧
    t.pend.get src = false ∧ (∀ other, other ≠ src → t.pend.get other = s.pend.get other) ∧ t.gie = true ∧
    t.btnN = s.btnN ∧ t.adcL = s.adcL ∧ t.adcH = s.adcH ∧ t.cfg = s.cfg

/-- A whole-machine rule behind 42_mode_fsm.md section "Laws" and 46_environment_ops.md premise (a): without a new
conversion result no sample handler step happens, and under that premise none happens while the trigger stays Disabled
with no conversion in progress. -/
def Obligations.NoSampleHandlerWithoutConversion : Prop :=
  (∀ (ops : List Instr) (s t : State), s.pend.s = false → (∀ v, Instr.adcdone v ∉ ops) → performAll ops s = .next t →
    Instr.isrs ∉ ops) ∧
  (∀ (ops : List Instr) (s t : State), s.pend.s = false → (∀ x ∈ traceOf ops s, sampling x.1 = false) →
    converterObeys false (traceOf ops s) = true → performAll ops s = .next t → Instr.isrs ∉ ops)

/-! ### The Bit-Pattern Encoder -/

/-- R80: on the pin of every LED the inverted pattern bit, on every other bit the old value, nothing but the ports
written; its worked example. -/
def Obligations.EncoderDrivesInvertedBits : Prop :=
  (∀ (s : State) (P : Pattern), pinTableInjective s.cfg.pinTable = true →
    ∃ ps, encodePattern P s = { s with ports := ps } ∧
      (∀ i : Fin 16, (ps.get s.cfg.pinTable[i].port).getLsbD s.cfg.pinTable[i].pin = !P.getLsbD i) ∧
      (∀ (p : Port) (n : Fin 8), ¬ IsDisplayBit s.cfg.pinTable p n → (ps.get p).getLsbD n = (s.ports.get p).getLsbD n)) ∧
  (∀ ps : Ports, (∀ p, ps.get p &&& ~~~portMask boardPinTable p = 0#8) →
    encodePorts boardPinTable 0x0001#16 ps = ⟨0x03#8, 0x3C#8, 0xF8#8, 0x0F#8⟩)

/-- The bit equations of 40_encoder.md section "encode" for the board's pin table, for every pattern and every old port
value (the spec marks them as derived). -/
def Obligations.EncoderPortEquations : Prop :=
  ∀ (P : Pattern) (b c d e : Byte),
    let inv := fun i : Nat => (BitVec.ofBool (!P.getLsbD i)).setWidth 8
    encodePorts boardPinTable P ⟨b, c, d, e⟩ =
      ⟨(b &&& 0xFC#8) ||| (inv 7 <<< 1) ||| (inv 8 <<< 0),
       (c &&& 0xC3#8) ||| (inv 1 <<< 5) ||| (inv 2 <<< 4) ||| (inv 3 <<< 3) ||| (inv 4 <<< 2),
       (d &&& 0x03#8) ||| (inv 9 <<< 7) ||| (inv 10 <<< 6) ||| (inv 11 <<< 5) ||| (inv 14 <<< 4) ||| (inv 15 <<< 3) |||
         (inv 0 <<< 2),
       (e &&& 0xF0#8) ||| (inv 5 <<< 3) ||| (inv 6 <<< 2) ||| (inv 12 <<< 1) ||| (inv 13 <<< 0)⟩

/-- R83: every pattern is read back exactly, for every injective pin table and every old port state. -/
def Obligations.EncodeThenDecodePortsIsThePattern : Prop :=
  ∀ (t : Vector Pin 16) (P : Pattern) (ps : Ports), pinTableInjective t = true →
    decodePorts t (encodePorts t P ps) = P

/-- The bits outside the masks are the same before and after the encoder, the display bits depend on the last pattern only,
whatever was shown before, for every pin table; and the example of 40_encoder.md section "Laws" (the spec marks all of this
as derived). -/
def Obligations.EncoderKeepsForeignBitsAndLastPatternWins : Prop :=
  (∀ (t : Vector Pin 16) (P : Pattern) (ps : Ports) (p : Port),
    (encodePorts t P ps).get p &&& ~~~portMask t p = ps.get p &&& ~~~portMask t p) ∧
  (∀ (t : Vector Pin 16) (P Q : Pattern) (ps : Ports), encodePorts t Q (encodePorts t P ps) = encodePorts t Q ps) ∧
  encodePorts boardPinTable 0x0000#16 ⟨0xA8#8, 0x41#8, 0x01#8, 0x50#8⟩ = ⟨0xAB#8, 0x7D#8, 0xFD#8, 0x5F#8⟩

/-! ### The Threshold Pattern Builder -/

/-- R90: bit `i` compares entry `i` with the threshold, both unsigned, strictly or inclusively; its worked example. -/
def Obligations.BuildPatternComparesEveryEntry : Prop :=
  (∀ (buf : Vector Byte 16) (t : Byte) (i : Fin 16),
    ((buildPattern false buf t).getLsbD i = true ↔ t.toNat < buf[i].toNat) ∧
    ((buildPattern true buf t).getLsbD i = true ↔ t.toNat ≤ buf[i].toNat)) ∧
  buildPattern false gamma 64#8 = 0xFE00#16

/-- R93: a bit lit at a threshold is lit at every lower one, for both comparison operators. -/
def Obligations.BuildPatternIsMonotone : Prop :=
  ∀ (inclusive : Bool) (buf : Vector Byte 16) (t1 t2 : Byte) (i : Fin 16), t1.toNat ≤ t2.toNat →
    (buildPattern inclusive buf t2).getLsbD i = true → (buildPattern inclusive buf t1).getLsbD i = true

/-! ### The mode state machine -/

/-- R101: the cycle Direct, VU, Attract, in names and in numbers; the out-of-range value steps to Direct; never 3. -/
def Obligations.NextModeIsTheCycle : Prop :=
  (nextMode .direct = .vu ∧ nextMode .vu = .attract ∧ nextMode .attract = .direct) ∧
  (∀ m : BitVec 2, m ≠ 3#2 → (modeCode (nextMode (effMode m))).toNat = (m.toNat + 1) % 3) ∧
  modeCode (nextMode (effMode 3#2)) = 0#2 ∧ ∀ m : BitVec 2, modeCode (nextMode (effMode m)) ≠ 3#2

/-- R103: the transition writes `mode` and `adc_trig`, both from the successor, and nothing else; its worked example. -/
def Obligations.TransitionWritesModeAndTrigger : Prop :=
  (∀ s : State, setNextMode s =
    { s with mode := modeCode (nextMode (effMode s.mode)), adcTrig := trigCode (trigOf (nextMode (effMode s.mode))) }) ∧
  (∀ s : State, s.mode = 1#2 → s.adcTrig = 2#2 → setNextMode s = { s with mode := 2#2, adcTrig := 0#2 })

/-- R100: the out-of-range value reads as Attract; the reading is no write: the value stays until the next transition and
`adc_trig` is not corrected. -/
def Obligations.OutOfRangeModeReadsAsAttract : Prop :=
  (effMode 0#2 = .direct ∧ effMode 1#2 = .vu ∧ effMode 2#2 = .attract ∧ effMode 3#2 = .attract) ∧
  (∀ s t : State, s.mode = 3#2 → exec .isrr s = .next t ∨ exec .isrs s = .next t → t.mode = 3#2 ∧ t.adcTrig = s.adcTrig) ∧
  (∀ s t : State, s.mode = 3#2 → (s.btnN = true ∨ s.debounce ≠ 0#8) → exec .isrc s = .next t →
    t.mode = 3#2 ∧ t.adcTrig = s.adcTrig)

/-! ### The control handler -/

/-- R110: what `ISRC` writes, in every state in which it is enabled, and its worked example. -/
def Obligations.IsrcStep : Prop :=
  (∀ s : State, configOk s.cfg = true → s.gie = true → s.pend.c = true → ∃ t, exec .isrc s = .next t ∧
    t = { s with pend := ⟨false, s.pend.r, s.pend.s⟩, mode := t.mode, adcTrig := t.adcTrig, debounce := t.debounce,
                 phase := t.phase, buf := t.buf } ∧
    (s.btnN = false ∧ s.debounce = 0#8 →
      t.mode = (setNextMode s).mode ∧ t.adcTrig = (setNextMode s).adcTrig ∧ t.debounce = 16#8) ∧
    (¬ (s.btnN = false ∧ s.debounce = 0#8) → t.mode = s.mode ∧ t.adcTrig = s.adcTrig ∧
      t.debounce.toNat = s.debounce.toNat - 1) ∧
    t.phase.toNat = (s.phase.toNat + 323) % 2 ^ s.cfg.phaseBits ∧
    (effMode t.mode = .attract → ∀ i : Fin 16, t.buf[i] = attractLevel s.cfg.phaseBits i t.phase.toNat) ∧
    (effMode t.mode ≠ .attract → t.buf = s.buf)) ∧
  (∃ t, performAll [.start, .tickc, .isrc] State.reset = .next t ∧ t.phase = 323#16 ∧ t.debounce = 0#8 ∧ t.mode = 2#2 ∧
    t.buf = #v[0#8, 188#8, 66#8, 0#8, 0#8, 0#8, 0#8, 0#8, 0#8, 0#8, 0#8, 0#8, 0#8, 0#8, 0#8, 0#8]) ∧
  decode 0x900000#24 = .ok .isrc

/-- R111: the four cases of the button and the debounce counter, the exact window, and the bound from reset. -/
def Obligations.ButtonAndDebounceCases : Prop :=
  (∀ s : State, s.gie = true → s.pend.c = true → ∃ t, exec .isrc s = .next t ∧
    (s.btnN = false → s.debounce = 0#8 →
      t.mode = modeCode (nextMode (effMode s.mode)) ∧ t.adcTrig = trigCode (trigOf (effMode t.mode)) ∧
      t.debounce.toNat = 16) ∧
    (s.btnN = false → 0 < s.debounce.toNat →
      t.mode = s.mode ∧ t.adcTrig = s.adcTrig ∧ t.debounce.toNat = s.debounce.toNat - 1) ∧
    (s.btnN = true → s.debounce = 0#8 → t.mode = s.mode ∧ t.adcTrig = s.adcTrig ∧ t.debounce.toNat = 0) ∧
    (s.btnN = true → 0 < s.debounce.toNat →
      t.mode = s.mode ∧ t.adcTrig = s.adcTrig ∧ t.debounce.toNat = s.debounce.toNat - 1)) ∧
  (∀ (ops : List Instr) (t : State), performAll ops State.reset = .next t → t.debounce.toNat ≤ 16)

/-- 43_control_handler.md, step 2, "the phase advance": over any number of control ticks, in every mode and whatever the
button does not do, the phase advances by 323 per tick modulo the track, returns exactly after whole multiples of
`2^PHASE_BITS` ticks, and visits every value of the track. -/
def Obligations.PhaseOrbitIsTheWholeTrack : Prop :=
  ∀ s : State, configOk s.cfg = true → s.gie = true → s.phase.toNat < 2 ^ s.cfg.phaseBits →
    (∀ n : Nat, ∃ t, performAll (Pseudo.expand (.ctTimes n)) s = .next t ∧
      t.phase.toNat = (s.phase.toNat + 323 * n) % 2 ^ s.cfg.phaseBits ∧
      (t.phase = s.phase ↔ 2 ^ s.cfg.phaseBits ∣ n)) ∧
    (∀ x : Nat, x < 2 ^ s.cfg.phaseBits → ∃ n t, n < 2 ^ s.cfg.phaseBits ∧
      performAll (Pseudo.expand (.ctTimes n)) s = .next t ∧ t.phase.toNat = x)

/-- R113: the brightness from the circular distance, its worked examples, and on the default track its corner cases: two
lit LEDs are neighbours whose levels sum to 254, and at a multiple of 256 one LED is at 255 and all others are dark. -/
def Obligations.AttractLevelIsTheCircularPulse : Prop :=
  (∀ (bits : Nat) (i : Fin 16) (ph : Nat), 12 ≤ bits → bits ≤ 16 → ph < 2 ^ bits →
    let a := (256 * i.val + 2 ^ bits - ph) % 2 ^ bits
    (attractLevel bits i ph).toNat = 255 - min a (2 ^ bits - a)) ∧
  (attractLevel 12 0 0 = 255#8 ∧ attractLevel 12 1 0 = 0#8 ∧ attractLevel 12 1 323 = 188#8 ∧ attractLevel 12 2 323 = 66#8 ∧
    attractLevel 12 15 3968 = 127#8 ∧ attractLevel 12 0 3968 = 127#8) ∧
  (∀ (i j : Fin 16) (ph : Nat), ph < 4096 → i ≠ j → attractLevel 12 i ph ≠ 0#8 → attractLevel 12 j ph ≠ 0#8 →
    (j.val = (i.val + 1) % 16 ∨ i.val = (j.val + 1) % 16) ∧
    (attractLevel 12 i ph).toNat + (attractLevel 12 j ph).toNat = 254) ∧
  (∀ i k : Fin 16, attractLevel 12 i (256 * k.val) = if i = k then 255#8 else 0#8)

/-- R114: in Attract mode (as the button step left it) all 16 entries are replaced in the same step by the frame of the
advanced phase; in Direct and VU mode the buffer is left as it was. -/
def Obligations.FrameIsWrittenInAttractOnly : Prop :=
  ∀ s : State, s.gie = true → s.pend.c = true → ∃ t, exec .isrc s = .next t ∧
    (effMode t.mode = .attract → ∀ i : Fin 16, t.buf[i] = attractLevel s.cfg.phaseBits i t.phase.toNat) ∧
    (effMode t.mode = .direct ∨ effMode t.mode = .vu → t.buf = s.buf)

/-- 43_control_handler.md section "Laws", pulse shape (which the spec marks as derived): LED 0 is brightest at phase 0, the
level is the same at equal distances on both sides, and it strictly falls with the distance until it is 0. -/
def Obligations.PulseIsSymmetricAndFalling : Prop :=
  ∀ bits : Nat, 12 ≤ bits → bits ≤ 16 →
    attractLevel bits 0 0 = 255#8 ∧
    (∀ (i : Fin 16) (x : Nat), x < 2 ^ bits →
      attractLevel bits i ((256 * i.val + x) % 2 ^ bits) =
        attractLevel bits i ((256 * i.val + 2 ^ bits - x) % 2 ^ bits)) ∧
    (∀ (i : Fin 16) (x y : Nat), x < y → y ≤ 2 ^ (bits - 1) →
      (attractLevel bits i ((256 * i.val + y) % 2 ^ bits)).toNat ≤
        (attractLevel bits i ((256 * i.val + x) % 2 ^ bits)).toNat ∧
      (x < 255 → (attractLevel bits i ((256 * i.val + y) % 2 ^ bits)).toNat <
        (attractLevel bits i ((256 * i.val + x) % 2 ^ bits)).toNat) ∧
      (255 ≤ x → attractLevel bits i ((256 * i.val + x) % 2 ^ bits) = 0#8))

/-- 43_control_handler.md section "Laws", held presses (which the spec marks as derived, decision D17): a button held for
`h` control ticks from `debounce = 0` makes `ceil(h / 17)` transitions, and so from Attract 35 ticks close the cycle. -/
def Obligations.HeldButtonRepeatsEverySeventeenTicks : Prop :=
  ∀ (s : State) (h : Nat), s.gie = true → s.btnN = false → s.debounce = 0#8 → s.mode ≠ 3#2 →
    ∃ t, performAll (Pseudo.expand (.ctTimes h)) s = .next t ∧
      t.mode.toNat = (s.mode.toNat + (h + 16) / 17) % 3 ∧
      (0 < h → t.adcTrig = trigCode (trigOf (effMode t.mode)) ∧ t.debounce.toNat = 16 - (h - 1) % 17)

/-! ### The refresh handler -/

/-- R125: what `ISRR` writes, in every state in which it is enabled and for both values of `REFRESH_GATED`, and its worked
example. -/
def Obligations.IsrrStep : Prop :=
  (∀ s : State, s.gie = true → s.pend.r = true → ∃ t, exec .isrr s = .next t ∧
    t = { s with pend := ⟨s.pend.c, false, s.pend.s⟩, slice := t.slice, ports := t.ports } ∧
    t.slice.toNat = (s.slice.toNat + 16) % 256 ∧
    (s.cfg.refreshGated = false ∨ effMode s.mode = .attract →
      t.ports = encodePorts s.cfg.pinTable (buildPattern s.cfg.cmpInclusive s.buf t.slice) s.ports) ∧
    (s.cfg.refreshGated = true ∧ effMode s.mode ≠ .attract → t.ports = s.ports)) ∧
  (∃ t, performAll [.start, .tickr, .isrr] State.reset = .next t ∧ t.slice = 16#8 ∧
    decodePorts boardPinTable t.ports = 0xFFE0#16 ∧ t.ports = ⟨0x00#8, 0x3C#8, 0x04#8, 0x00#8⟩) ∧
  decode 0xA00000#24 = .ok .isrr

/-- 44_refresh_handler.md, gated and ungated: gated, Direct and VU keep the ports; ungated, the ports show the buffer at the
advanced threshold in every mode. -/
def Obligations.RefreshGatingDecidesWhoDrivesThePorts : Prop :=
  (∀ s : State, s.cfg.refreshGated = true → s.mode = 0#2 ∨ s.mode = 1#2 → s.gie = true → s.pend.r = true →
    ∃ t, exec .isrr s = .next t ∧ outputs t = outputs s) ∧
  (∀ s : State, configOk s.cfg = true → s.cfg.refreshGated = false → s.gie = true → s.pend.r = true →
    ∃ t, exec .isrr s = .next t ∧
      decodePorts t.cfg.pinTable t.ports = buildPattern s.cfg.cmpInclusive s.buf (s.slice + 16#8))

/-- 44_refresh_handler.md, "Period" (which the spec marks as derived): the threshold returns exactly after multiples of 16
refresh ticks, and with the ports driven the 17th tick shows what the first showed. -/
def Obligations.RefreshSweepHasPeriodSixteen : Prop :=
  ∀ s : State, s.gie = true →
    (∀ n : Nat, ∃ t, performAll (Pseudo.expand (.rtTimes n)) s = .next t ∧
      t.slice.toNat = (s.slice.toNat + 16 * n) % 256 ∧ (t.slice = s.slice ↔ 16 ∣ n)) ∧
    (drivesPorts s = true → ∃ t u, performAll (Pseudo.expand (.rtTimes 1)) s = .next t ∧
      performAll (Pseudo.expand (.rtTimes 17)) s = .next u ∧ u.ports = t.ports)

/-- 41_threshold_builder.md section "Laws", duty cycle (which the spec marks as derived): over one sweep in which the ports
are driven, an LED whose buffer entry is `v` is lit in `ceil(v/16)` of 16 refresh ticks under `>`, in `floor(v/16) + 1`
under `>=`. -/
def Obligations.DutyCycleOfAFullSweep : Prop :=
  ∀ (s : State) (led : Fin 16), configOk s.cfg = true → s.gie = true → drivesPorts s = true → s.slice.toNat % 16 = 0 →
    litCount led 16 s =
      some (if s.cfg.cmpInclusive then s.buf[led].toNat / 16 + 1 else (s.buf[led].toNat + 15) / 16)

/-! ### The sample handler -/

/-- R130: what `ISRS` writes, in every state in which it is enabled, and its worked example. (That the step leaves the
converter's latch empty is log 9.) -/
def Obligations.IsrsStep : Prop :=
  (∀ s : State, s.gie = true → s.pend.s = true → ∃ t v, exec .isrs s = .next t ∧
    t = { s with pend := ⟨s.pend.c, s.pend.r, false⟩, ports := t.ports, adcLatch := t.adcLatch } ∧
    v = s.adcH.toNat * 256 + s.adcL.toNat ∧
    (effMode s.mode = .direct →
      t.ports = encodePorts s.cfg.pinTable (thermo (BitVec.ofNat 4 (v / 2 ^ s.cfg.shiftDirect))) s.ports) ∧
    (effMode s.mode = .vu →
      t.ports = encodePorts s.cfg.pinTable (thermo (BitVec.ofNat 4 (v / 2 ^ s.cfg.shiftVu))) s.ports) ∧
    (effMode s.mode = .attract → t.ports = s.ports ∧ t.adcLatch = s.adcLatch)) ∧
  (∀ s : State, s.cfg = defaultConfig → s.gie = true → s.pend.s = true → s.mode = 0#2 → s.adcH = 0x00#8 → s.adcL = 0x50#8 →
    (∀ p, s.ports.get p &&& ~~~portMask boardPinTable p = 0#8) →
    ∃ t, exec .isrs s = .next t ∧ t.ports = ⟨0x03#8, 0x00#8, 0xF8#8, 0x0F#8⟩) ∧
  decode 0xB00000#24 = .ok .isrs

/-- R133: in Attract mode, the out-of-range value included, `ISRS` clears `pend.s` and does nothing else. -/
def Obligations.SpuriousSampleIsASilentNoOp : Prop :=
  ∀ s : State, s.gie = true → s.pend.s = true → s.mode = 2#2 ∨ s.mode = 3#2 →
    exec .isrs s = .next { s with pend := ⟨s.pend.c, s.pend.r, false⟩ }

/-- R134: the ports after `ISRS` do not depend on the buffer, on `slice` or on `phase`, and `ISRS` leaves them alone. -/
def Obligations.SamplePathBypassesTheBuffer : Prop :=
  ∀ (s t : State) (buf : Vector Byte 16) (slice : Byte) (phase : BitVec 16), exec .isrs s = .next t →
    t.buf = s.buf ∧ t.slice = s.slice ∧
    exec .isrs { s with buf := buf, slice := slice, phase := phase } =
      .next { t with buf := buf, slice := slice, phase := phase }

/-- R131 as arithmetic: the 4-bit field above the shift, discarded above; for every configuration the constraints allow each
bar count is first reached at `n * 2^shift`, in VU at a smaller sample than in Direct; the wraps and the corner cases at the
defaults. -/
def Obligations.QuantizeIsTheShiftedField : Prop :=
  (∀ (shift : Nat) (v : Sample), (quantize shift v).toNat = v.toNat / 2 ^ shift % 16) ∧
  (∀ (c : Config) (n : BitVec 4), configOk c = true →
    (∀ v : Sample, quantize c.shiftVu v = n → n.toNat * 2 ^ c.shiftVu ≤ v.toNat) ∧
    (∀ v : Sample, quantize c.shiftDirect v = n → n.toNat * 2 ^ c.shiftDirect ≤ v.toNat) ∧
    quantize c.shiftVu (BitVec.ofNat 16 (n.toNat * 2 ^ c.shiftVu)) = n ∧
    quantize c.shiftDirect (BitVec.ofNat 16 (n.toNat * 2 ^ c.shiftDirect)) = n ∧
    (n ≠ 0#4 → n.toNat * 2 ^ c.shiftVu < n.toNat * 2 ^ c.shiftDirect)) ∧
  (∀ v : Sample, quantize 4 (v + 256#16) = quantize 4 v ∧ quantize 2 (v + 64#16) = quantize 2 v) ∧
  (quantize 4 256#16 = 0#4 ∧ quantize 2 64#16 = 0#4 ∧ quantize 4 240#16 = 15#4 ∧ quantize 2 60#16 = 15#4 ∧
    quantize 4 0x03FF#16 = 15#4 ∧ quantize 2 0x03FF#16 = 15#4 ∧ quantize 4 0xFFFF#16 = 15#4 ∧
    quantize 2 0xFFFF#16 = 15#4 ∧ quantize 4 0#16 = 0#4 ∧ quantize 2 0#16 = 0#4)

/-- R69: `thermo(n) = 2^n - 1`, the bottom `n` bits set and the rest clear, bit 15 never. -/
def Obligations.ThermometerCode : Prop :=
  ∀ n : BitVec 4, (thermo n).toNat = 2 ^ n.toNat - 1 ∧
    (∀ j : Fin 16, (thermo n).getLsbD j = true ↔ j.val < n.toNat) ∧ (thermo n).getLsbD 15 = false

/-- 45_sample_handler.md, "Which sample is read" (which the spec marks as derived): the newest result is shown, no older one
is queued, and the handler of a single result shows exactly that result. -/
def Obligations.NewestSampleIsShown : Prop :=
  (∀ (s : State) (v w : Sample), performAll [.adcdone v, .adcdone w, .isrs] s = performAll [.adcdone w, .isrs] s) ∧
  (∀ (s : State) (v : Sample), s.gie = true → effMode s.mode ≠ .attract → configOk s.cfg = true →
    ∃ t shift, performAll [.adcdone v, .isrs] s = .next t ∧ (shift = s.cfg.shiftDirect ∨ shift = s.cfg.shiftVu) ∧
      (effMode s.mode = .direct → shift = s.cfg.shiftDirect) ∧ (effMode s.mode = .vu → shift = s.cfg.shiftVu) ∧
      decodePorts s.cfg.pinTable t.ports = thermo (BitVec.ofNat 4 (v.toNat / 2 ^ shift)))

/-! ### Locations, writers and frames -/

/-- R41, with the widths of 20_memory.md section 1: a write replaces the value by `v` reduced to the location's width and
leaves every other location; writing twice is writing once. `ROM` is not written (log 11). -/
def Obligations.LocationsReadBackWhatWasWritten : Prop :=
  (∀ (s : State) (l : Loc) (v : Nat), s.adcLatch = none → (∀ i, l ≠ .gamma i) →
    peek l (memWrite l v s) = BitVec.ofNat 8 (v % 2 ^ l.width)) ∧
  (∀ (s : State) (l m : Loc) (v : Nat), m ≠ l → peek m (memWrite l v s) = peek m s) ∧
  (∀ (s : State) (l : Loc) (v : Nat), memWrite l v (memWrite l v s) = memWrite l v s)

/-- 20_memory.md section 3: a read of any location but the converter's has no side effect; the two reads of the sample,
low first, give the pair even if the converter writes a new result between them (the latch, log 9). -/
def Obligations.SampleReadIsNotTorn : Prop :=
  (∀ (s : State) (l : Loc), l ≠ .adcL → l ≠ .adcH → (memRead l s).2 = s) ∧
  (∀ (s : State) (hi lo : Byte), (memRead .adcH { (memRead .adcL s).2 with adcH := hi, adcL := lo }).1 = s.adcH) ∧
  (∀ s : State, (readSample s).1.toNat = s.adcH.toNat * 256 + s.adcL.toNat ∧
    (readSample s).2 = { s with adcLatch := none })

/-- The frame of every operation over the named locations: outside the locations the operation stores to (computed by
`storesTo`, the "written by" column of 10_state.md section 1) every location reads as before. The latch premise is an
invariant of the model (`StepKeepsRegistersOk`). -/
def Obligations.LocationsOutsideTheStoresKeepTheirValue : Prop :=
  ∀ (i : Instr) (s t : State), s.adcLatch = none → exec i s = .next t →
    ∀ l : Loc, storesTo i s l = false → peek l t = peek l s

/-- Who writes each register (10_state.md section 1): if an operation changes a register, it is one of that register's
writers. The last two clauses are not of that section: that the latch changes by `ISRS` alone is the model's choice (log 9);
`cfg` is constant (00_scope.md section 5), and that no operation of `exec` touches the model's own `schedule` and `draws` is
the model's choice (log 1, 4, 18). -/
def Obligations.RegistersChangeOnlyByTheirWriters : Prop :=
  ∀ (i : Instr) (s t : State), exec i s = .next t →
    (t.buf ≠ s.buf → i = .rst ∨ (i = .isrc ∧ effMode t.mode = .attract)) ∧
    (t.mode ≠ s.mode ∨ t.adcTrig ≠ s.adcTrig ∨ t.debounce ≠ s.debounce ∨ t.phase ≠ s.phase → i = .rst ∨ i = .isrc) ∧
    (t.slice ≠ s.slice → i = .rst ∨ i = .isrr) ∧
    (t.ports ≠ s.ports → i = .rst ∨ i = .isrr ∨ i = .isrs ∨ ∃ p v, i = .pinwr p v) ∧
    (t.pend.c ≠ s.pend.c → i = .rst ∨ i = .tickc ∨ i = .isrc) ∧
    (t.pend.r ≠ s.pend.r → i = .rst ∨ i = .tickr ∨ i = .isrr) ∧
    (t.pend.s ≠ s.pend.s → i = .rst ∨ i = .isrs ∨ ∃ v, i = .adcdone v) ∧
    (t.gie ≠ s.gie → i = .rst ∨ i = .start ∨ i = .stop) ∧
    (t.btnN ≠ s.btnN → ∃ level, i = .btn level) ∧
    (t.adcL ≠ s.adcL ∨ t.adcH ≠ s.adcH → ∃ v, i = .adcdone v) ∧
    (t.adcLatch ≠ s.adcLatch → i = .isrs) ∧
    t.cfg = s.cfg ∧ t.schedule = s.schedule ∧ t.draws = s.draws

/-! ### The step and the whole machine -/

/-- When the head of the schedule decodes to an operation, the step is that operation from the state with the word taken
off the schedule; the same through `withFetchWord` (log 1, 2). -/
def Obligations.StepPerformsTheDecodedOperation : Prop :=
  (∀ (s : State) (w : Word) (rest : List Word) (i : Instr), configOk s.cfg = true → s.schedule = w :: rest →
    decode w = .ok i → step s = exec i { s with schedule := rest }) ∧
  (∀ (s : State) (i : Instr), configOk s.cfg = true → i.served = none →
    step (s.withFetchWord 24 (encode i).toNat) = exec i s) ∧
  (∀ (s : State) (src : Source), configOk s.cfg = true →
    step (s.withFetchWord 24 (encode src.handler).toNat) =
      exec src.handler { s with gie := true, pend := s.pend.set src true })

/-- Exactly when and why a step is refused (00_scope.md section 4, 46_environment_ops.md on illegal words,
60_exceptions.md section 3; the names are log 3), and that `exec` refuses only a handler that is not enabled. -/
def Obligations.StepIsRefusedExactlyForThreeReasons : Prop :=
  (∀ (s : State) (i : Instr) (r : Refusal), exec i s = .refused r ↔
    ∃ src, i = Source.handler src ∧ ¬ (s.gie = true ∧ s.pend.get src = true) ∧ r = .notEnabled src) ∧
  ∀ (s : State) (r : Refusal), step s = .refused r ↔
    (configOk s.cfg = false ∧ r = .badConfig) ∨
    (configOk s.cfg = true ∧ ∃ w rest, s.schedule = w :: rest ∧ (∃ e, decode w = .error e) ∧ r = .illegalWord w) ∨
    (configOk s.cfg = true ∧ ∃ w rest src, s.schedule = w :: rest ∧ decode w = .ok (Source.handler src) ∧
      ¬ (s.gie = true ∧ s.pend.get src = true) ∧ r = .notEnabled src)

/-- 60_exceptions.md section 3 with the schedule exhausted (the model's choice, log 4): the dispatcher takes an enabled
handler if there is one, whichever the free value picks, and otherwise the machine idles unchanged. -/
def Obligations.DispatcherTakesAnEnabledHandler : Prop :=
  ∀ s : State, configOk s.cfg = true → s.schedule = [] →
    ((s.gie = true ∧ ∃ src, s.pend.get src = true) →
      ∃ src t, s.pend.get src = true ∧ step s = exec (Source.handler src) { s with draws := s.draws + 1 } ∧
        step s = .next t) ∧
    (¬ (s.gie = true ∧ ∃ src, s.pend.get src = true) → step s = .next s)

/-- The registers' invariant (10_state.md, the reachable values of `mode`, `debounce`, `slice`, `phase` and the agreement of
`adc_trig` with `mode`; the latch is log 9) is kept by every step from every state that has it. -/
def Obligations.StepKeepsRegistersOk : Prop :=
  ∀ s t : State, RegistersOk s → step s = .next t → RegistersOk t

/-- The invariant holds after power-up, for every configuration, and so at reset. That the converter's latch is empty at
power-up is the model's choice (log 9). -/
def Obligations.PowerUpHasRegistersOk : Prop :=
  (∀ c : Config, RegistersOk (State.powerUp c)) ∧ RegistersOk State.reset

/-- The values that 70_reset_and_hazards.md section 1 gives for the state after power-up, for every configuration: every
register but the foreign port bits and the converter's registers, whose values are the model's choice (log 7, 8). -/
def Obligations.PowerUpValues : Prop :=
  ∀ c : Config, ∀ s, s = State.powerUp c →
    s.buf = gamma ∧ effMode s.mode = c.bootMode ∧ s.mode ≠ 3#2 ∧ trigMeaning s.adcTrig = trigOf c.bootMode ∧
    s.debounce = 0#8 ∧ s.slice = 0#8 ∧ s.phase = 0#16 ∧
    (∀ (p : Port) (n : Fin 8), IsDisplayBit c.pinTable p n → (s.ports.get p).getLsbD n = true) ∧
    s.pend = ⟨false, false, false⟩ ∧ s.gie = false ∧ s.btnN = true

/-- R9: no step writes the parameters, the pin table or `GAMMA`. -/
def Obligations.ConfigurationIsConstantInARun : Prop :=
  ∀ s t : State, step s = .next t → t.cfg = s.cfg ∧ (∀ i, romPin i t = romPin i s) ∧
    (∀ i, peek (.gamma i) t = peek (.gamma i) s)

/-- A schedule of stimulus words run by `step` is the operations performed in order (30_encoding.md section 1): the step
machine refines `performAll`, stops included. -/
def Obligations.RunningAScheduleIsPerformingItsOperations : Prop :=
  ∀ (ops : List Instr) (rest : List Word) (s : State), configOk s.cfg = true →
    Host.Core.run Sys2Proof.core ops.length { s with schedule := ops.map encode ++ rest } =
      performAll ops { s with schedule := rest }

/-- 46_environment_ops.md on illegal words: a schedule that holds one is refused whole, any other is placed and nothing else
changes; and a step that meets an illegal word is refused (log 2). -/
def Obligations.IllegalWordsAreRefused : Prop :=
  (∀ (ws : List Word) (s : State), (∃ w ∈ ws, ∃ e, decode w = .error e) →
    ∃ w ∈ ws, (∃ e, decode w = .error e) ∧ placeSchedule ws s = .refused (.illegalWord w)) ∧
  (∀ (ws : List Word) (s : State), (∀ w ∈ ws, ∃ i, decode w = .ok i) →
    placeSchedule ws s = .next { s with schedule := ws }) ∧
  (∀ (s : State) (w : Word) (rest : List Word) (e : DecodeError), configOk s.cfg = true → s.schedule = w :: rest →
    decode w = .error e → step s = .refused (.illegalWord w))

/-- 30_encoding.md section 5: the pseudo-operations and their expansions, and that `CT`, `RT` and `SMP` have their two steps
exactly where the handler's step is enabled, that is where `gie = 1`. -/
def Obligations.PseudoOperationsNeedPreemption : Prop :=
  (∀ v : Sample, Pseudo.expand .press = [.btn false] ∧ Pseudo.expand .release = [.btn true] ∧
    Pseudo.expand .ct = [.tickc, .isrc] ∧ Pseudo.expand .rt = [.tickr, .isrr] ∧
    Pseudo.expand (.smp v) = [.adcdone v, .isrs]) ∧
  (∀ (s : State) (v : Sample),
    ((∃ t, performAll (Pseudo.expand .ct) s = .next t) ↔ s.gie = true) ∧
    ((∃ t, performAll (Pseudo.expand .rt) s = .next t) ↔ s.gie = true) ∧
    ((∃ t, performAll (Pseudo.expand (.smp v)) s = .next t) ↔ s.gie = true))

/-- 70_reset_and_hazards.md, "First behaviour after reset" (which the spec marks as derived): after `START` the LEDs are
dark, the first refresh handler step shows the gamma ramp at threshold 16, and the first control handler step replaces the
buffer by the frame of phase 323. -/
def Obligations.FirstBehaviourAfterReset : Prop :=
  ∃ a b c, performAll [.start] State.reset = .next a ∧ decodePorts boardPinTable a.ports = 0#16 ∧
    performAll [.tickr, .isrr] a = .next b ∧ decodePorts boardPinTable b.ports = buildPattern false gamma 16#8 ∧
    performAll [.tickc, .isrc] b = .next c ∧ ∀ i : Fin 16, c.buf[i] = attractLevel 12 i 323
end

