-- ==== Sys2Proof/Laws/State.lean ====
section
/-! SUPPORT. One lemma per field per update of the state, each true by definition, so that no later proof unfolds a
record update. -/

namespace Sys2Proof.Machine

variable (s : State)

/-! ### raiseEvent -/

@[simp] theorem raiseEvent_buf (src : Source) : (raiseEvent src s).buf = s.buf := rfl
@[simp] theorem raiseEvent_mode (src : Source) : (raiseEvent src s).mode = s.mode := rfl
@[simp] theorem raiseEvent_debounce (src : Source) : (raiseEvent src s).debounce = s.debounce := rfl
@[simp] theorem raiseEvent_slice (src : Source) : (raiseEvent src s).slice = s.slice := rfl
@[simp] theorem raiseEvent_phase (src : Source) : (raiseEvent src s).phase = s.phase := rfl
@[simp] theorem raiseEvent_ports (src : Source) : (raiseEvent src s).ports = s.ports := rfl
@[simp] theorem raiseEvent_adcTrig (src : Source) : (raiseEvent src s).adcTrig = s.adcTrig := rfl
@[simp] theorem raiseEvent_pend (src : Source) : (raiseEvent src s).pend = s.pend.set src true := rfl
@[simp] theorem raiseEvent_gie (src : Source) : (raiseEvent src s).gie = s.gie := rfl
@[simp] theorem raiseEvent_btnN (src : Source) : (raiseEvent src s).btnN = s.btnN := rfl
@[simp] theorem raiseEvent_adcL (src : Source) : (raiseEvent src s).adcL = s.adcL := rfl
@[simp] theorem raiseEvent_adcH (src : Source) : (raiseEvent src s).adcH = s.adcH := rfl
@[simp] theorem raiseEvent_adcLatch (src : Source) : (raiseEvent src s).adcLatch = s.adcLatch := rfl
@[simp] theorem raiseEvent_cfg (src : Source) : (raiseEvent src s).cfg = s.cfg := rfl
@[simp] theorem raiseEvent_schedule (src : Source) : (raiseEvent src s).schedule = s.schedule := rfl
@[simp] theorem raiseEvent_draws (src : Source) : (raiseEvent src s).draws = s.draws := rfl

/-! ### clearPending -/

@[simp] theorem clearPending_buf (src : Source) : (clearPending src s).buf = s.buf := rfl
@[simp] theorem clearPending_mode (src : Source) : (clearPending src s).mode = s.mode := rfl
@[simp] theorem clearPending_debounce (src : Source) : (clearPending src s).debounce = s.debounce := rfl
@[simp] theorem clearPending_slice (src : Source) : (clearPending src s).slice = s.slice := rfl
@[simp] theorem clearPending_phase (src : Source) : (clearPending src s).phase = s.phase := rfl
@[simp] theorem clearPending_ports (src : Source) : (clearPending src s).ports = s.ports := rfl
@[simp] theorem clearPending_adcTrig (src : Source) : (clearPending src s).adcTrig = s.adcTrig := rfl
@[simp] theorem clearPending_pend (src : Source) : (clearPending src s).pend = s.pend.set src false := rfl
@[simp] theorem clearPending_gie (src : Source) : (clearPending src s).gie = s.gie := rfl
@[simp] theorem clearPending_btnN (src : Source) : (clearPending src s).btnN = s.btnN := rfl
@[simp] theorem clearPending_adcL (src : Source) : (clearPending src s).adcL = s.adcL := rfl
@[simp] theorem clearPending_adcH (src : Source) : (clearPending src s).adcH = s.adcH := rfl
@[simp] theorem clearPending_adcLatch (src : Source) : (clearPending src s).adcLatch = s.adcLatch := rfl
@[simp] theorem clearPending_cfg (src : Source) : (clearPending src s).cfg = s.cfg := rfl
@[simp] theorem clearPending_schedule (src : Source) : (clearPending src s).schedule = s.schedule := rfl
@[simp] theorem clearPending_draws (src : Source) : (clearPending src s).draws = s.draws := rfl

/-! ### setGie -/

@[simp] theorem setGie_buf (v : Bool) : (setGie v s).buf = s.buf := rfl
@[simp] theorem setGie_mode (v : Bool) : (setGie v s).mode = s.mode := rfl
@[simp] theorem setGie_debounce (v : Bool) : (setGie v s).debounce = s.debounce := rfl
@[simp] theorem setGie_slice (v : Bool) : (setGie v s).slice = s.slice := rfl
@[simp] theorem setGie_phase (v : Bool) : (setGie v s).phase = s.phase := rfl
@[simp] theorem setGie_ports (v : Bool) : (setGie v s).ports = s.ports := rfl
@[simp] theorem setGie_adcTrig (v : Bool) : (setGie v s).adcTrig = s.adcTrig := rfl
@[simp] theorem setGie_pend (v : Bool) : (setGie v s).pend = s.pend := rfl
@[simp] theorem setGie_gie (v : Bool) : (setGie v s).gie = v := rfl
@[simp] theorem setGie_btnN (v : Bool) : (setGie v s).btnN = s.btnN := rfl
@[simp] theorem setGie_adcL (v : Bool) : (setGie v s).adcL = s.adcL := rfl
@[simp] theorem setGie_adcH (v : Bool) : (setGie v s).adcH = s.adcH := rfl
@[simp] theorem setGie_adcLatch (v : Bool) : (setGie v s).adcLatch = s.adcLatch := rfl
@[simp] theorem setGie_cfg (v : Bool) : (setGie v s).cfg = s.cfg := rfl
@[simp] theorem setGie_schedule (v : Bool) : (setGie v s).schedule = s.schedule := rfl
@[simp] theorem setGie_draws (v : Bool) : (setGie v s).draws = s.draws := rfl

/-! ### writeBuf -/

@[simp] theorem writeBuf_buf (i : Fin 16) (v : Byte) : (writeBuf i v s).buf = s.buf.set i v := rfl
@[simp] theorem writeBuf_mode (i : Fin 16) (v : Byte) : (writeBuf i v s).mode = s.mode := rfl
@[simp] theorem writeBuf_debounce (i : Fin 16) (v : Byte) : (writeBuf i v s).debounce = s.debounce := rfl
@[simp] theorem writeBuf_slice (i : Fin 16) (v : Byte) : (writeBuf i v s).slice = s.slice := rfl
@[simp] theorem writeBuf_phase (i : Fin 16) (v : Byte) : (writeBuf i v s).phase = s.phase := rfl
@[simp] theorem writeBuf_ports (i : Fin 16) (v : Byte) : (writeBuf i v s).ports = s.ports := rfl
@[simp] theorem writeBuf_adcTrig (i : Fin 16) (v : Byte) : (writeBuf i v s).adcTrig = s.adcTrig := rfl
@[simp] theorem writeBuf_pend (i : Fin 16) (v : Byte) : (writeBuf i v s).pend = s.pend := rfl
@[simp] theorem writeBuf_gie (i : Fin 16) (v : Byte) : (writeBuf i v s).gie = s.gie := rfl
@[simp] theorem writeBuf_btnN (i : Fin 16) (v : Byte) : (writeBuf i v s).btnN = s.btnN := rfl
@[simp] theorem writeBuf_adcL (i : Fin 16) (v : Byte) : (writeBuf i v s).adcL = s.adcL := rfl
@[simp] theorem writeBuf_adcH (i : Fin 16) (v : Byte) : (writeBuf i v s).adcH = s.adcH := rfl
@[simp] theorem writeBuf_adcLatch (i : Fin 16) (v : Byte) : (writeBuf i v s).adcLatch = s.adcLatch := rfl
@[simp] theorem writeBuf_cfg (i : Fin 16) (v : Byte) : (writeBuf i v s).cfg = s.cfg := rfl
@[simp] theorem writeBuf_schedule (i : Fin 16) (v : Byte) : (writeBuf i v s).schedule = s.schedule := rfl
@[simp] theorem writeBuf_draws (i : Fin 16) (v : Byte) : (writeBuf i v s).draws = s.draws := rfl

/-! ### writeFrame -/

@[simp] theorem writeFrame_buf (f : Fin 16 → Byte) : (writeFrame f s).buf = Vector.ofFn f := by dsimp only [writeFrame]
@[simp] theorem writeFrame_mode (f : Fin 16 → Byte) : (writeFrame f s).mode = s.mode := by dsimp only [writeFrame]
@[simp] theorem writeFrame_debounce (f : Fin 16 → Byte) : (writeFrame f s).debounce = s.debounce := by dsimp only [writeFrame]
@[simp] theorem writeFrame_slice (f : Fin 16 → Byte) : (writeFrame f s).slice = s.slice := by dsimp only [writeFrame]
@[simp] theorem writeFrame_phase (f : Fin 16 → Byte) : (writeFrame f s).phase = s.phase := by dsimp only [writeFrame]
@[simp] theorem writeFrame_ports (f : Fin 16 → Byte) : (writeFrame f s).ports = s.ports := by dsimp only [writeFrame]
@[simp] theorem writeFrame_adcTrig (f : Fin 16 → Byte) : (writeFrame f s).adcTrig = s.adcTrig := by dsimp only [writeFrame]
@[simp] theorem writeFrame_pend (f : Fin 16 → Byte) : (writeFrame f s).pend = s.pend := by dsimp only [writeFrame]
@[simp] theorem writeFrame_gie (f : Fin 16 → Byte) : (writeFrame f s).gie = s.gie := by dsimp only [writeFrame]
@[simp] theorem writeFrame_btnN (f : Fin 16 → Byte) : (writeFrame f s).btnN = s.btnN := by dsimp only [writeFrame]
@[simp] theorem writeFrame_adcL (f : Fin 16 → Byte) : (writeFrame f s).adcL = s.adcL := by dsimp only [writeFrame]
@[simp] theorem writeFrame_adcH (f : Fin 16 → Byte) : (writeFrame f s).adcH = s.adcH := by dsimp only [writeFrame]
@[simp] theorem writeFrame_adcLatch (f : Fin 16 → Byte) : (writeFrame f s).adcLatch = s.adcLatch := by dsimp only [writeFrame]
@[simp] theorem writeFrame_cfg (f : Fin 16 → Byte) : (writeFrame f s).cfg = s.cfg := by dsimp only [writeFrame]
@[simp] theorem writeFrame_schedule (f : Fin 16 → Byte) : (writeFrame f s).schedule = s.schedule := by dsimp only [writeFrame]
@[simp] theorem writeFrame_draws (f : Fin 16 → Byte) : (writeFrame f s).draws = s.draws := by dsimp only [writeFrame]

/-! ### writePort -/

@[simp] theorem writePort_buf (p : Port) (v : Byte) : (writePort p v s).buf = s.buf := rfl
@[simp] theorem writePort_mode (p : Port) (v : Byte) : (writePort p v s).mode = s.mode := rfl
@[simp] theorem writePort_debounce (p : Port) (v : Byte) : (writePort p v s).debounce = s.debounce := rfl
@[simp] theorem writePort_slice (p : Port) (v : Byte) : (writePort p v s).slice = s.slice := rfl
@[simp] theorem writePort_phase (p : Port) (v : Byte) : (writePort p v s).phase = s.phase := rfl
@[simp] theorem writePort_ports (p : Port) (v : Byte) : (writePort p v s).ports = s.ports.set p v := rfl
@[simp] theorem writePort_adcTrig (p : Port) (v : Byte) : (writePort p v s).adcTrig = s.adcTrig := rfl
@[simp] theorem writePort_pend (p : Port) (v : Byte) : (writePort p v s).pend = s.pend := rfl
@[simp] theorem writePort_gie (p : Port) (v : Byte) : (writePort p v s).gie = s.gie := rfl
@[simp] theorem writePort_btnN (p : Port) (v : Byte) : (writePort p v s).btnN = s.btnN := rfl
@[simp] theorem writePort_adcL (p : Port) (v : Byte) : (writePort p v s).adcL = s.adcL := rfl
@[simp] theorem writePort_adcH (p : Port) (v : Byte) : (writePort p v s).adcH = s.adcH := rfl
@[simp] theorem writePort_adcLatch (p : Port) (v : Byte) : (writePort p v s).adcLatch = s.adcLatch := rfl
@[simp] theorem writePort_cfg (p : Port) (v : Byte) : (writePort p v s).cfg = s.cfg := rfl
@[simp] theorem writePort_schedule (p : Port) (v : Byte) : (writePort p v s).schedule = s.schedule := rfl
@[simp] theorem writePort_draws (p : Port) (v : Byte) : (writePort p v s).draws = s.draws := rfl

/-! ### encodePattern -/

@[simp] theorem encodePattern_buf (P : Pattern) : (encodePattern P s).buf = s.buf := by dsimp only [encodePattern]
@[simp] theorem encodePattern_mode (P : Pattern) : (encodePattern P s).mode = s.mode := by dsimp only [encodePattern]
@[simp] theorem encodePattern_debounce (P : Pattern) : (encodePattern P s).debounce = s.debounce := by dsimp only [encodePattern]
@[simp] theorem encodePattern_slice (P : Pattern) : (encodePattern P s).slice = s.slice := by dsimp only [encodePattern]
@[simp] theorem encodePattern_phase (P : Pattern) : (encodePattern P s).phase = s.phase := by dsimp only [encodePattern]
@[simp] theorem encodePattern_ports (P : Pattern) : (encodePattern P s).ports = encodePorts s.cfg.pinTable P s.ports := by dsimp only [encodePattern]
@[simp] theorem encodePattern_adcTrig (P : Pattern) : (encodePattern P s).adcTrig = s.adcTrig := by dsimp only [encodePattern]
@[simp] theorem encodePattern_pend (P : Pattern) : (encodePattern P s).pend = s.pend := by dsimp only [encodePattern]
@[simp] theorem encodePattern_gie (P : Pattern) : (encodePattern P s).gie = s.gie := by dsimp only [encodePattern]
@[simp] theorem encodePattern_btnN (P : Pattern) : (encodePattern P s).btnN = s.btnN := by dsimp only [encodePattern]
@[simp] theorem encodePattern_adcL (P : Pattern) : (encodePattern P s).adcL = s.adcL := by dsimp only [encodePattern]
@[simp] theorem encodePattern_adcH (P : Pattern) : (encodePattern P s).adcH = s.adcH := by dsimp only [encodePattern]
@[simp] theorem encodePattern_adcLatch (P : Pattern) : (encodePattern P s).adcLatch = s.adcLatch := by dsimp only [encodePattern]
@[simp] theorem encodePattern_cfg (P : Pattern) : (encodePattern P s).cfg = s.cfg := by dsimp only [encodePattern]
@[simp] theorem encodePattern_schedule (P : Pattern) : (encodePattern P s).schedule = s.schedule := by dsimp only [encodePattern]
@[simp] theorem encodePattern_draws (P : Pattern) : (encodePattern P s).draws = s.draws := by dsimp only [encodePattern]

/-! ### setNextMode -/

@[simp] theorem setNextMode_buf : (setNextMode s).buf = s.buf := rfl
@[simp] theorem setNextMode_mode : (setNextMode s).mode = modeCode (nextMode (effMode s.mode)) := rfl
@[simp] theorem setNextMode_debounce : (setNextMode s).debounce = s.debounce := rfl
@[simp] theorem setNextMode_slice : (setNextMode s).slice = s.slice := rfl
@[simp] theorem setNextMode_phase : (setNextMode s).phase = s.phase := rfl
@[simp] theorem setNextMode_ports : (setNextMode s).ports = s.ports := rfl
@[simp] theorem setNextMode_adcTrig : (setNextMode s).adcTrig = trigCode (trigOf (nextMode (effMode s.mode))) := rfl
@[simp] theorem setNextMode_pend : (setNextMode s).pend = s.pend := rfl
@[simp] theorem setNextMode_gie : (setNextMode s).gie = s.gie := rfl
@[simp] theorem setNextMode_btnN : (setNextMode s).btnN = s.btnN := rfl
@[simp] theorem setNextMode_adcL : (setNextMode s).adcL = s.adcL := rfl
@[simp] theorem setNextMode_adcH : (setNextMode s).adcH = s.adcH := rfl
@[simp] theorem setNextMode_adcLatch : (setNextMode s).adcLatch = s.adcLatch := rfl
@[simp] theorem setNextMode_cfg : (setNextMode s).cfg = s.cfg := rfl
@[simp] theorem setNextMode_schedule : (setNextMode s).schedule = s.schedule := rfl
@[simp] theorem setNextMode_draws : (setNextMode s).draws = s.draws := rfl

/-! ### advancePhase -/

@[simp] theorem advancePhase_buf : (advancePhase s).buf = s.buf := by dsimp only [advancePhase]
@[simp] theorem advancePhase_mode : (advancePhase s).mode = s.mode := by dsimp only [advancePhase]
@[simp] theorem advancePhase_debounce : (advancePhase s).debounce = s.debounce := by dsimp only [advancePhase]
@[simp] theorem advancePhase_slice : (advancePhase s).slice = s.slice := by dsimp only [advancePhase]
@[simp] theorem advancePhase_phase : (advancePhase s).phase = BitVec.ofNat 16 ((s.phase.toNat + phaseInc) % 2 ^ s.cfg.phaseBits) := by dsimp only [advancePhase]
@[simp] theorem advancePhase_ports : (advancePhase s).ports = s.ports := by dsimp only [advancePhase]
@[simp] theorem advancePhase_adcTrig : (advancePhase s).adcTrig = s.adcTrig := by dsimp only [advancePhase]
@[simp] theorem advancePhase_pend : (advancePhase s).pend = s.pend := by dsimp only [advancePhase]
@[simp] theorem advancePhase_gie : (advancePhase s).gie = s.gie := by dsimp only [advancePhase]
@[simp] theorem advancePhase_btnN : (advancePhase s).btnN = s.btnN := by dsimp only [advancePhase]
@[simp] theorem advancePhase_adcL : (advancePhase s).adcL = s.adcL := by dsimp only [advancePhase]
@[simp] theorem advancePhase_adcH : (advancePhase s).adcH = s.adcH := by dsimp only [advancePhase]
@[simp] theorem advancePhase_adcLatch : (advancePhase s).adcLatch = s.adcLatch := by dsimp only [advancePhase]
@[simp] theorem advancePhase_cfg : (advancePhase s).cfg = s.cfg := by dsimp only [advancePhase]
@[simp] theorem advancePhase_schedule : (advancePhase s).schedule = s.schedule := by dsimp only [advancePhase]
@[simp] theorem advancePhase_draws : (advancePhase s).draws = s.draws := by dsimp only [advancePhase]

/-! ### advanceSlice -/

@[simp] theorem advanceSlice_buf : (advanceSlice s).buf = s.buf := rfl
@[simp] theorem advanceSlice_mode : (advanceSlice s).mode = s.mode := rfl
@[simp] theorem advanceSlice_debounce : (advanceSlice s).debounce = s.debounce := rfl
@[simp] theorem advanceSlice_slice : (advanceSlice s).slice = s.slice + threshStep := rfl
@[simp] theorem advanceSlice_phase : (advanceSlice s).phase = s.phase := rfl
@[simp] theorem advanceSlice_ports : (advanceSlice s).ports = s.ports := rfl
@[simp] theorem advanceSlice_adcTrig : (advanceSlice s).adcTrig = s.adcTrig := rfl
@[simp] theorem advanceSlice_pend : (advanceSlice s).pend = s.pend := rfl
@[simp] theorem advanceSlice_gie : (advanceSlice s).gie = s.gie := rfl
@[simp] theorem advanceSlice_btnN : (advanceSlice s).btnN = s.btnN := rfl
@[simp] theorem advanceSlice_adcL : (advanceSlice s).adcL = s.adcL := rfl
@[simp] theorem advanceSlice_adcH : (advanceSlice s).adcH = s.adcH := rfl
@[simp] theorem advanceSlice_adcLatch : (advanceSlice s).adcLatch = s.adcLatch := rfl
@[simp] theorem advanceSlice_cfg : (advanceSlice s).cfg = s.cfg := rfl
@[simp] theorem advanceSlice_schedule : (advanceSlice s).schedule = s.schedule := rfl
@[simp] theorem advanceSlice_draws : (advanceSlice s).draws = s.draws := rfl

/-! ### resetBlock -/

@[simp] theorem resetBlock_buf : (resetBlock s).buf = gamma := by dsimp only [resetBlock]
@[simp] theorem resetBlock_mode : (resetBlock s).mode = modeCode s.cfg.bootMode := by dsimp only [resetBlock]
@[simp] theorem resetBlock_debounce : (resetBlock s).debounce = 0#8 := by dsimp only [resetBlock]
@[simp] theorem resetBlock_slice : (resetBlock s).slice = 0#8 := by dsimp only [resetBlock]
@[simp] theorem resetBlock_phase : (resetBlock s).phase = 0#16 := by dsimp only [resetBlock]
@[simp] theorem resetBlock_ports : (resetBlock s).ports = Ports.ofFn fun p => s.ports.get p ||| portMask s.cfg.pinTable p := by dsimp only [resetBlock]
@[simp] theorem resetBlock_adcTrig : (resetBlock s).adcTrig = trigCode (trigOf s.cfg.bootMode) := by dsimp only [resetBlock]
@[simp] theorem resetBlock_pend : (resetBlock s).pend = ⟨false, false, false⟩ := by dsimp only [resetBlock]
@[simp] theorem resetBlock_gie : (resetBlock s).gie = false := by dsimp only [resetBlock]
@[simp] theorem resetBlock_btnN : (resetBlock s).btnN = s.btnN := by dsimp only [resetBlock]
@[simp] theorem resetBlock_adcL : (resetBlock s).adcL = s.adcL := by dsimp only [resetBlock]
@[simp] theorem resetBlock_adcH : (resetBlock s).adcH = s.adcH := by dsimp only [resetBlock]
@[simp] theorem resetBlock_adcLatch : (resetBlock s).adcLatch = s.adcLatch := by dsimp only [resetBlock]
@[simp] theorem resetBlock_cfg : (resetBlock s).cfg = s.cfg := by dsimp only [resetBlock]
@[simp] theorem resetBlock_schedule : (resetBlock s).schedule = s.schedule := by dsimp only [resetBlock]
@[simp] theorem resetBlock_draws : (resetBlock s).draws = s.draws := by dsimp only [resetBlock]

/-! ### pushWord -/

@[simp] theorem pushWord_buf (w : Word) : (pushWord w s).buf = s.buf := rfl
@[simp] theorem pushWord_mode (w : Word) : (pushWord w s).mode = s.mode := rfl
@[simp] theorem pushWord_debounce (w : Word) : (pushWord w s).debounce = s.debounce := rfl
@[simp] theorem pushWord_slice (w : Word) : (pushWord w s).slice = s.slice := rfl
@[simp] theorem pushWord_phase (w : Word) : (pushWord w s).phase = s.phase := rfl
@[simp] theorem pushWord_ports (w : Word) : (pushWord w s).ports = s.ports := rfl
@[simp] theorem pushWord_adcTrig (w : Word) : (pushWord w s).adcTrig = s.adcTrig := rfl
@[simp] theorem pushWord_pend (w : Word) : (pushWord w s).pend = s.pend := rfl
@[simp] theorem pushWord_gie (w : Word) : (pushWord w s).gie = s.gie := rfl
@[simp] theorem pushWord_btnN (w : Word) : (pushWord w s).btnN = s.btnN := rfl
@[simp] theorem pushWord_adcL (w : Word) : (pushWord w s).adcL = s.adcL := rfl
@[simp] theorem pushWord_adcH (w : Word) : (pushWord w s).adcH = s.adcH := rfl
@[simp] theorem pushWord_adcLatch (w : Word) : (pushWord w s).adcLatch = s.adcLatch := rfl
@[simp] theorem pushWord_cfg (w : Word) : (pushWord w s).cfg = s.cfg := rfl
@[simp] theorem pushWord_schedule (w : Word) : (pushWord w s).schedule = w :: s.schedule := rfl
@[simp] theorem pushWord_draws (w : Word) : (pushWord w s).draws = s.draws := rfl

/-! ### Pending flags and ports -/

@[simp] theorem Pending.get_set_self (f : Pending) (src : Source) (v : Bool) : (f.set src v).get src = v := by
  cases src <;> rfl

theorem Pending.get_set_ne (f : Pending) {src other : Source} (v : Bool) (h : other ≠ src) :
    (f.set src v).get other = f.get other := by
  cases src <;> cases other <;> first | rfl | exact absurd rfl h

@[simp] theorem Ports.get_set_self (ps : Ports) (p : Port) (v : Byte) : (ps.set p v).get p = v := by
  cases p <;> rfl

theorem Ports.get_set_ne (ps : Ports) {p q : Port} (v : Byte) (h : q ≠ p) : (ps.set p v).get q = ps.get q := by
  cases p <;> cases q <;> first | rfl | exact absurd rfl h

@[simp] theorem Ports.get_ofFn (f : Port → Byte) (p : Port) : (Ports.ofFn f).get p = f p := by
  cases p <;> rfl

theorem Ports.ext_get {a b : Ports} (h : ∀ p, a.get p = b.get p) : a = b := by
  cases a; cases b
  have hb := h .b; have hc := h .c; have hd := h .d; have he := h .e
  simp only [Ports.get] at hb hc hd he
  simp [hb, hc, hd, he]

end Sys2Proof.Machine
end

