-- ==== Sys2Proof/Laws/Ops.lean ====
section
/-! SUPPORT. One lemma per shared operation that says what it does, cited instead of unfolding it: masks and the encoder
bit by bit, the builder, the mode encodings, the sample read, the dispatch of a handler and the dispatcher's choice. -/

namespace Sys2Proof.Machine

/-! ### Masks and the encoder, bit by bit -/

theorem any_finRange_eq_true {n : Nat} (f : Fin n → Bool) : (List.finRange n).any f = true ↔ ∃ i, f i = true := by
  simp [List.any_eq_true]

theorem portMask_getLsbD (t : Vector Pin 16) (p : Port) (n : Fin 8) :
    (portMask t p).getLsbD n = true ↔ IsDisplayBit t p n := by
  simp [portMask, IsDisplayBit]

theorem portBits_getLsbD (t : Vector Pin 16) (P : Pattern) (p : Port) (n : Fin 8) :
    (portBits t P p).getLsbD n = true ↔ ∃ i : Fin 16, t[i] = ⟨p, n⟩ ∧ P.getLsbD i = false := by
  simp [portBits]

theorem maskedUpdate_getLsbD (mask old new : Byte) (n : Fin 8) :
    (maskedUpdate mask old new).getLsbD n = if mask.getLsbD n then new.getLsbD n else old.getLsbD n := by
  simp only [maskedUpdate, BitVec.getLsbD_or, BitVec.getLsbD_and, BitVec.getLsbD_not, n.isLt, decide_true, Bool.true_and]
  cases mask.getLsbD n <;> simp

theorem encodePorts_get (t : Vector Pin 16) (P : Pattern) (ps : Ports) (p : Port) :
    (encodePorts t P ps).get p = maskedUpdate (portMask t p) (ps.get p) (portBits t P p) := by
  simp [encodePorts]

/-- A foreign bit survives the encoder. -/
theorem encodePorts_foreign (t : Vector Pin 16) (P : Pattern) (ps : Ports) (p : Port) (n : Fin 8)
    (h : ¬ IsDisplayBit t p n) : ((encodePorts t P ps).get p).getLsbD n = (ps.get p).getLsbD n := by
  rw [encodePorts_get, maskedUpdate_getLsbD, if_neg (mt (portMask_getLsbD t p n).mp h)]

theorem pinTableInjective_iff (t : Vector Pin 16) :
    pinTableInjective t = true ↔ ∀ i j : Fin 16, t[i] = t[j] → i = j := by
  simp only [pinTableInjective, decide_eq_true_eq, List.nodup_iff_injective_get]
  constructor
  · intro h i j hij
    have := @h ⟨i, by simp⟩ ⟨j, by simp⟩ (by simpa using hij)
    exact Fin.ext (by simpa using this)
  · intro h i j hij
    have := h ⟨i, by simpa using i.isLt⟩ ⟨j, by simpa using j.isLt⟩ (by simpa using hij)
    exact Fin.ext (by simpa using this)

/-- With an injective pin table the pin of an LED holds the inverse of its pattern bit. -/
theorem encodePorts_display (t : Vector Pin 16) (ht : pinTableInjective t = true) (P : Pattern) (ps : Ports) (i : Fin 16) :
    ((encodePorts t P ps).get t[i].port).getLsbD t[i].pin = !P.getLsbD i := by
  have hinj := (pinTableInjective_iff t).mp ht
  have hmask : (portMask t t[i].port).getLsbD t[i].pin = true := (portMask_getLsbD _ _ _).mpr ⟨i, rfl⟩
  rw [encodePorts_get, maskedUpdate_getLsbD, if_pos hmask, Bool.eq_iff_iff, portBits_getLsbD]
  constructor
  · rintro ⟨j, hj, hP⟩
    rw [hinj j i hj] at hP
    rw [hP]; rfl
  · intro hP
    exact ⟨i, rfl, by simpa using hP⟩

theorem decodePorts_getLsbD (t : Vector Pin 16) (ps : Ports) (i : Fin 16) :
    (decodePorts t ps).getLsbD i = !(ps.get t[i].port).getLsbD t[i].pin := by
  simp [decodePorts]

/-! ### The builder -/

theorem buildPattern_getLsbD (inclusive : Bool) (buf : Vector Byte 16) (t : Byte) (i : Fin 16) :
    (buildPattern inclusive buf t).getLsbD i = exceeds inclusive buf[i] t := by
  simp [buildPattern]

theorem exceeds_iff (inclusive : Bool) (v t : Byte) :
    exceeds inclusive v t = true ↔ if inclusive then t.toNat ≤ v.toNat else t.toNat < v.toNat := by
  cases inclusive <;> simp [exceeds, BitVec.le_def, BitVec.lt_def]

/-! ### Mode and trigger encodings -/

@[simp] theorem effMode_modeCode (m : Mode) : effMode (modeCode m) = m := by cases m <;> rfl

theorem modeCode_ne_three (m : Mode) : modeCode m ≠ 3#2 := by cases m <;> decide

@[simp] theorem trigMeaning_trigCode (t : Trigger) : trigMeaning (trigCode t) = t := by cases t <;> rfl

/-! ### The sample -/

theorem readSample_eq (s : State) : readSample s = (combine s.adcH s.adcL, { s with adcLatch := none }) := rfl

theorem combine_toNat (hi lo : Byte) : (combine hi lo).toNat = hi.toNat * 256 + lo.toNat := by
  have hh := hi.isLt
  have hl := lo.isLt
  have hor := Nat.two_pow_add_eq_or_of_lt (i := 8) hl hi.toNat
  simp only [combine, BitVec.toNat_or, BitVec.toNat_shiftLeft, BitVec.toNat_setWidth, Nat.shiftLeft_eq]
  rw [Nat.mod_eq_of_lt (a := hi.toNat) (by omega), Nat.mod_eq_of_lt (a := lo.toNat) (by omega),
    Nat.mod_eq_of_lt (by omega), Nat.mul_comm hi.toNat, ← hor]

theorem combine_high_low (v : Sample) : combine (highByte v) (lowByte v) = v := by
  apply BitVec.eq_of_toNat_eq
  rw [combine_toNat]
  simp only [highByte, lowByte, BitVec.extractLsb'_toNat]
  omega

/-- A sample handler that shows a bar: it releases the latch and writes the bar of the sample to the ports. -/
theorem showSample_eq (shift : Nat) (s : State) :
    showSample shift s = encodePattern (thermo (quantize shift (combine s.adcH s.adcL))) { s with adcLatch := none } := rfl

/-! ### Dispatch -/

theorem enabled_iff (s : State) (src : Source) : enabled s src = true ↔ s.gie = true ∧ s.pend.get src = true := by
  simp [enabled]

/-- All that a dispatch can do. -/
theorem dispatch_cases (src : Source) (handler : State → State) (s : State) :
    (enabled s src = true ∧ dispatch src handler s = .next (handler (clearPending src s))) ∨
      (enabled s src = false ∧ dispatch src handler s = .refused (.notEnabled src)) := by
  unfold dispatch
  cases enabled s src <;> simp

theorem dispatch_eq_next {src : Source} {handler : State → State} {s t : State} :
    dispatch src handler s = .next t ↔ enabled s src = true ∧ handler (clearPending src s) = t := by
  rcases dispatch_cases src handler s with ⟨h, e⟩ | ⟨h, e⟩ <;> simp [h, e]

theorem mem_enabledSources (s : State) (src : Source) : src ∈ enabledSources s ↔ enabled s src = true := by
  cases src <;> simp [enabledSources]

/-- The dispatcher picks none only of none, and otherwise one of the enabled sources. -/
theorem pickSource_mem {l : List Source} (n : Nat) (h : l ≠ []) : ∃ src ∈ l, pickSource l n = some src := by
  match l, h with
  | [x], _ => exact ⟨x, by simp, rfl⟩
  | x :: y :: rest, _ =>
    have hlt : n % (rest.length + 2) < (x :: y :: rest).length := Nat.mod_lt _ (by simp)
    exact ⟨(x :: y :: rest)[n % (rest.length + 2)], List.getElem_mem _, by simp [pickSource, List.getElem?_eq_getElem hlt]⟩

@[simp] theorem selectHandler_env {i : Instr} (s : State) (h : i.served = none) : selectHandler i s = s := by
  simp [selectHandler, h]

/-- Selecting a handler that is enabled already changes nothing. -/
theorem selectHandler_of_enabled {i : Instr} {src : Source} {s : State} (h : i.served = some src)
    (he : enabled s src = true) : selectHandler i s = s := by
  obtain ⟨hg, hp⟩ := (enabled_iff s src).mp he
  have hpend : s.pend.set src true = s.pend := by
    cases src <;> (simp only [Pending.get] at hp; simp only [Pending.set]; rw [← hp])
  simp only [selectHandler, h, setGie, raiseEvent, hpend]
  rw [← hg]

/-- A selected handler is enabled. -/
theorem enabled_selectHandler {i : Instr} {src : Source} (s : State) (h : i.served = some src) :
    enabled (selectHandler i s) src = true := by
  simp [selectHandler, h, enabled]

end Sys2Proof.Machine
end

