-- ==== Sys2Proof/Laws/Handlers.lean ====
section
/-! SUPPORT. The three handlers field by field, and `exec` of a dispatcher operation as a dispatch: cited instead of
unfolding the handlers. -/

namespace Sys2Proof.Machine

variable (s : State)

theorem qualifiedPress_iff : qualifiedPress s = true ↔ s.btnN = false ∧ s.debounce = 0#8 := by
  simp [qualifiedPress]

/-- All that the button step can do. -/
theorem buttonStep_cases :
    (qualifiedPress s = true ∧ buttonStep s = { setNextMode s with debounce := debounceWindow }) ∨
      (qualifiedPress s = false ∧ s.debounce ≠ 0#8 ∧ buttonStep s = { s with debounce := s.debounce - 1#8 }) ∨
      (qualifiedPress s = false ∧ s.debounce = 0#8 ∧ buttonStep s = s) := by
  cases hq : qualifiedPress s
  · have hn := mt (qualifiedPress_iff s).mpr (by rw [hq]; decide)
    by_cases h : s.debounce = 0#8
    · exact .inr (.inr ⟨rfl, h, by rw [buttonStep, if_neg hn, if_neg (not_not.mpr h)]⟩)
    · exact .inr (.inl ⟨rfl, h, by rw [buttonStep, if_neg hn, if_pos h]⟩)
  · exact .inl ⟨rfl, by rw [buttonStep, if_pos ((qualifiedPress_iff s).mp hq)]⟩

/-! ### The control handler -/

@[simp] theorem buttonStep_buf : (buttonStep s).buf = s.buf := by
  rcases buttonStep_cases s with ⟨_, e⟩ | ⟨_, _, e⟩ | ⟨_, _, e⟩ <;> simp [e]

@[simp] theorem buttonStep_mode : (buttonStep s).mode = if qualifiedPress s then modeCode (nextMode (effMode s.mode)) else s.mode := by
  rcases buttonStep_cases s with ⟨h, e⟩ | ⟨h, _, e⟩ | ⟨h, _, e⟩ <;> simp [h, e]

@[simp] theorem buttonStep_debounce : (buttonStep s).debounce =
    if qualifiedPress s then debounceWindow else if s.debounce = 0#8 then s.debounce else s.debounce - 1#8 := by
  rcases buttonStep_cases s with ⟨h, e⟩ | ⟨h, h2, e⟩ | ⟨h, h2, e⟩ <;> (rw [e]; simp [*])

@[simp] theorem buttonStep_slice : (buttonStep s).slice = s.slice := by
  rcases buttonStep_cases s with ⟨_, e⟩ | ⟨_, _, e⟩ | ⟨_, _, e⟩ <;> simp [e]

@[simp] theorem buttonStep_phase : (buttonStep s).phase = s.phase := by
  rcases buttonStep_cases s with ⟨_, e⟩ | ⟨_, _, e⟩ | ⟨_, _, e⟩ <;> simp [e]

@[simp] theorem buttonStep_ports : (buttonStep s).ports = s.ports := by
  rcases buttonStep_cases s with ⟨_, e⟩ | ⟨_, _, e⟩ | ⟨_, _, e⟩ <;> simp [e]

@[simp] theorem buttonStep_adcTrig : (buttonStep s).adcTrig = if qualifiedPress s then trigCode (trigOf (nextMode (effMode s.mode))) else s.adcTrig := by
  rcases buttonStep_cases s with ⟨h, e⟩ | ⟨h, _, e⟩ | ⟨h, _, e⟩ <;> simp [h, e]

@[simp] theorem buttonStep_pend : (buttonStep s).pend = s.pend := by
  rcases buttonStep_cases s with ⟨_, e⟩ | ⟨_, _, e⟩ | ⟨_, _, e⟩ <;> simp [e]

@[simp] theorem buttonStep_gie : (buttonStep s).gie = s.gie := by
  rcases buttonStep_cases s with ⟨_, e⟩ | ⟨_, _, e⟩ | ⟨_, _, e⟩ <;> simp [e]

@[simp] theorem buttonStep_btnN : (buttonStep s).btnN = s.btnN := by
  rcases buttonStep_cases s with ⟨_, e⟩ | ⟨_, _, e⟩ | ⟨_, _, e⟩ <;> simp [e]

@[simp] theorem buttonStep_adcL : (buttonStep s).adcL = s.adcL := by
  rcases buttonStep_cases s with ⟨_, e⟩ | ⟨_, _, e⟩ | ⟨_, _, e⟩ <;> simp [e]

@[simp] theorem buttonStep_adcH : (buttonStep s).adcH = s.adcH := by
  rcases buttonStep_cases s with ⟨_, e⟩ | ⟨_, _, e⟩ | ⟨_, _, e⟩ <;> simp [e]

@[simp] theorem buttonStep_adcLatch : (buttonStep s).adcLatch = s.adcLatch := by
  rcases buttonStep_cases s with ⟨_, e⟩ | ⟨_, _, e⟩ | ⟨_, _, e⟩ <;> simp [e]

@[simp] theorem buttonStep_cfg : (buttonStep s).cfg = s.cfg := by
  rcases buttonStep_cases s with ⟨_, e⟩ | ⟨_, _, e⟩ | ⟨_, _, e⟩ <;> simp [e]

@[simp] theorem buttonStep_schedule : (buttonStep s).schedule = s.schedule := by
  rcases buttonStep_cases s with ⟨_, e⟩ | ⟨_, _, e⟩ | ⟨_, _, e⟩ <;> simp [e]

@[simp] theorem buttonStep_draws : (buttonStep s).draws = s.draws := by
  rcases buttonStep_cases s with ⟨_, e⟩ | ⟨_, _, e⟩ | ⟨_, _, e⟩ <;> simp [e]

/-- The mode a control handler step acts on in its animation step. -/
theorem effMode_buttonStep : effMode (buttonStep s).mode = modeAfterButton s := by
  cases h : qualifiedPress s <;> simp [modeAfterButton, h]

@[simp] theorem controlHandler_buf : (controlHandler s).buf =
    if modeAfterButton s = .attract then
      Vector.ofFn fun i => attractLevel s.cfg.phaseBits i (controlHandler s).phase.toNat
    else s.buf := by
  simp only [controlHandler, attractFrame, advancePhase_mode, effMode_buttonStep]
  split <;> simp

@[simp] theorem controlHandler_mode : (controlHandler s).mode = (buttonStep s).mode := by
  simp only [controlHandler, attractFrame]; split <;> simp

@[simp] theorem controlHandler_debounce : (controlHandler s).debounce = (buttonStep s).debounce := by
  simp only [controlHandler, attractFrame]; split <;> simp

@[simp] theorem controlHandler_slice : (controlHandler s).slice = s.slice := by
  simp only [controlHandler, attractFrame]; split <;> simp

@[simp] theorem controlHandler_phase : (controlHandler s).phase = BitVec.ofNat 16 ((s.phase.toNat + phaseInc) % 2 ^ s.cfg.phaseBits) := by
  simp only [controlHandler, attractFrame]; split <;> simp

@[simp] theorem controlHandler_ports : (controlHandler s).ports = s.ports := by
  simp only [controlHandler, attractFrame]; split <;> simp

@[simp] theorem controlHandler_adcTrig : (controlHandler s).adcTrig = (buttonStep s).adcTrig := by
  simp only [controlHandler, attractFrame]; split <;> simp

@[simp] theorem controlHandler_pend : (controlHandler s).pend = s.pend := by
  simp only [controlHandler, attractFrame]; split <;> simp

@[simp] theorem controlHandler_gie : (controlHandler s).gie = s.gie := by
  simp only [controlHandler, attractFrame]; split <;> simp

@[simp] theorem controlHandler_btnN : (controlHandler s).btnN = s.btnN := by
  simp only [controlHandler, attractFrame]; split <;> simp

@[simp] theorem controlHandler_adcL : (controlHandler s).adcL = s.adcL := by
  simp only [controlHandler, attractFrame]; split <;> simp

@[simp] theorem controlHandler_adcH : (controlHandler s).adcH = s.adcH := by
  simp only [controlHandler, attractFrame]; split <;> simp

@[simp] theorem controlHandler_adcLatch : (controlHandler s).adcLatch = s.adcLatch := by
  simp only [controlHandler, attractFrame]; split <;> simp

@[simp] theorem controlHandler_cfg : (controlHandler s).cfg = s.cfg := by
  simp only [controlHandler, attractFrame]; split <;> simp

@[simp] theorem controlHandler_schedule : (controlHandler s).schedule = s.schedule := by
  simp only [controlHandler, attractFrame]; split <;> simp

@[simp] theorem controlHandler_draws : (controlHandler s).draws = s.draws := by
  simp only [controlHandler, attractFrame]; split <;> simp

/-! ### The refresh handler -/

@[simp] theorem drivesPorts_advanceSlice : drivesPorts (advanceSlice s) = drivesPorts s := rfl

theorem drivesPorts_iff : drivesPorts s = true ↔ s.cfg.refreshGated = false ∨ effMode s.mode = .attract := by
  simp [drivesPorts]

@[simp] theorem refreshHandler_buf : (refreshHandler s).buf = s.buf := by
  simp only [refreshHandler, showBuffer]; split <;> simp

@[simp] theorem refreshHandler_mode : (refreshHandler s).mode = s.mode := by
  simp only [refreshHandler, showBuffer]; split <;> simp

@[simp] theorem refreshHandler_debounce : (refreshHandler s).debounce = s.debounce := by
  simp only [refreshHandler, showBuffer]; split <;> simp

@[simp] theorem refreshHandler_slice : (refreshHandler s).slice = s.slice + threshStep := by
  simp only [refreshHandler, showBuffer]; split <;> simp

@[simp] theorem refreshHandler_phase : (refreshHandler s).phase = s.phase := by
  simp only [refreshHandler, showBuffer]; split <;> simp

@[simp] theorem refreshHandler_ports : (refreshHandler s).ports =
    if drivesPorts s then encodePorts s.cfg.pinTable (buildPattern s.cfg.cmpInclusive s.buf (s.slice + threshStep)) s.ports
    else s.ports := by
  have hd := drivesPorts_advanceSlice s
  by_cases h : drivesPorts s = true
  · rw [refreshHandler, if_pos (hd.trans h), if_pos h]; simp [showBuffer]
  · rw [refreshHandler, if_neg (by rw [hd]; exact h), if_neg h]; simp

@[simp] theorem refreshHandler_adcTrig : (refreshHandler s).adcTrig = s.adcTrig := by
  simp only [refreshHandler, showBuffer]; split <;> simp

@[simp] theorem refreshHandler_pend : (refreshHandler s).pend = s.pend := by
  simp only [refreshHandler, showBuffer]; split <;> simp

@[simp] theorem refreshHandler_gie : (refreshHandler s).gie = s.gie := by
  simp only [refreshHandler, showBuffer]; split <;> simp

@[simp] theorem refreshHandler_btnN : (refreshHandler s).btnN = s.btnN := by
  simp only [refreshHandler, showBuffer]; split <;> simp

@[simp] theorem refreshHandler_adcL : (refreshHandler s).adcL = s.adcL := by
  simp only [refreshHandler, showBuffer]; split <;> simp

@[simp] theorem refreshHandler_adcH : (refreshHandler s).adcH = s.adcH := by
  simp only [refreshHandler, showBuffer]; split <;> simp

@[simp] theorem refreshHandler_adcLatch : (refreshHandler s).adcLatch = s.adcLatch := by
  simp only [refreshHandler, showBuffer]; split <;> simp

@[simp] theorem refreshHandler_cfg : (refreshHandler s).cfg = s.cfg := by
  simp only [refreshHandler, showBuffer]; split <;> simp

@[simp] theorem refreshHandler_schedule : (refreshHandler s).schedule = s.schedule := by
  simp only [refreshHandler, showBuffer]; split <;> simp

@[simp] theorem refreshHandler_draws : (refreshHandler s).draws = s.draws := by
  simp only [refreshHandler, showBuffer]; split <;> simp

/-! ### The sample handler -/

/-- The shift a mode's sample is quantised with; none in Attract mode (45_sample_handler.md R131, R133). -/
def shiftOf (c : Config) : Mode → Option Nat
  | .direct => some c.shiftDirect
  | .vu => some c.shiftVu
  | .attract => none

/-- All that the sample handler can do. -/
theorem sampleHandler_cases :
    (∃ shift, shiftOf s.cfg (effMode s.mode) = some shift ∧ sampleHandler s =
      { s with adcLatch := none
               ports := encodePorts s.cfg.pinTable (thermo (quantize shift (combine s.adcH s.adcL))) s.ports }) ∨
      (effMode s.mode = .attract ∧ sampleHandler s = s) := by
  unfold sampleHandler
  cases effMode s.mode
  · exact .inl ⟨_, rfl, rfl⟩
  · exact .inl ⟨_, rfl, rfl⟩
  · exact .inr ⟨rfl, rfl⟩

@[simp] theorem sampleHandler_buf : (sampleHandler s).buf = s.buf := by
  rcases sampleHandler_cases s with ⟨_, _, e⟩ | ⟨_, e⟩ <;> rw [e]

@[simp] theorem sampleHandler_mode : (sampleHandler s).mode = s.mode := by
  rcases sampleHandler_cases s with ⟨_, _, e⟩ | ⟨_, e⟩ <;> rw [e]

@[simp] theorem sampleHandler_debounce : (sampleHandler s).debounce = s.debounce := by
  rcases sampleHandler_cases s with ⟨_, _, e⟩ | ⟨_, e⟩ <;> rw [e]

@[simp] theorem sampleHandler_slice : (sampleHandler s).slice = s.slice := by
  rcases sampleHandler_cases s with ⟨_, _, e⟩ | ⟨_, e⟩ <;> rw [e]

@[simp] theorem sampleHandler_phase : (sampleHandler s).phase = s.phase := by
  rcases sampleHandler_cases s with ⟨_, _, e⟩ | ⟨_, e⟩ <;> rw [e]

@[simp] theorem sampleHandler_adcTrig : (sampleHandler s).adcTrig = s.adcTrig := by
  rcases sampleHandler_cases s with ⟨_, _, e⟩ | ⟨_, e⟩ <;> rw [e]

@[simp] theorem sampleHandler_pend : (sampleHandler s).pend = s.pend := by
  rcases sampleHandler_cases s with ⟨_, _, e⟩ | ⟨_, e⟩ <;> rw [e]

@[simp] theorem sampleHandler_gie : (sampleHandler s).gie = s.gie := by
  rcases sampleHandler_cases s with ⟨_, _, e⟩ | ⟨_, e⟩ <;> rw [e]

@[simp] theorem sampleHandler_btnN : (sampleHandler s).btnN = s.btnN := by
  rcases sampleHandler_cases s with ⟨_, _, e⟩ | ⟨_, e⟩ <;> rw [e]

@[simp] theorem sampleHandler_adcL : (sampleHandler s).adcL = s.adcL := by
  rcases sampleHandler_cases s with ⟨_, _, e⟩ | ⟨_, e⟩ <;> rw [e]

@[simp] theorem sampleHandler_adcH : (sampleHandler s).adcH = s.adcH := by
  rcases sampleHandler_cases s with ⟨_, _, e⟩ | ⟨_, e⟩ <;> rw [e]

@[simp] theorem sampleHandler_cfg : (sampleHandler s).cfg = s.cfg := by
  rcases sampleHandler_cases s with ⟨_, _, e⟩ | ⟨_, e⟩ <;> rw [e]

@[simp] theorem sampleHandler_schedule : (sampleHandler s).schedule = s.schedule := by
  rcases sampleHandler_cases s with ⟨_, _, e⟩ | ⟨_, e⟩ <;> rw [e]

@[simp] theorem sampleHandler_draws : (sampleHandler s).draws = s.draws := by
  rcases sampleHandler_cases s with ⟨_, _, e⟩ | ⟨_, e⟩ <;> rw [e]

/-! ### Dispatcher operations -/

/-- The handler of a source. -/
def handlerOf : Source → State → State
  | .control => controlHandler
  | .refresh => refreshHandler
  | .sample => sampleHandler

/-- A dispatcher operation is the dispatch of its source's handler. -/
theorem exec_handler (src : Source) : exec src.handler s = dispatch src (handlerOf src) s := by
  cases src <;> rfl

/-- All that a dispatcher operation can do. -/
theorem exec_handler_cases (src : Source) :
    (enabled s src = true ∧ exec src.handler s = .next (handlerOf src (clearPending src s))) ∨
      (enabled s src = false ∧ exec src.handler s = .refused (.notEnabled src)) := by
  rw [exec_handler]
  exact dispatch_cases src (handlerOf src) s

@[simp] theorem handlerOf_pend (src : Source) : (handlerOf src s).pend = s.pend := by
  cases src <;> simp [handlerOf]

@[simp] theorem handlerOf_gie (src : Source) : (handlerOf src s).gie = s.gie := by
  cases src <;> simp [handlerOf]

@[simp] theorem handlerOf_cfg (src : Source) : (handlerOf src s).cfg = s.cfg := by
  cases src <;> simp [handlerOf]

end Sys2Proof.Machine
end

