-- ==== Sys2Proof/Laws/Locations.lean ====
section
/-! SUPPORT. What a read of each named location gives, and that the model's other small definitions see only the fields
they are meant to see. -/

namespace Sys2Proof.Machine

variable (s : State)

/-! ### The value of each location -/

@[simp] theorem peek_buf (i : Fin 16) : peek (.buf i) s = s.buf[i] := rfl

@[simp] theorem peek_port (p : Port) : peek (.port p) s = s.ports.get p := rfl

@[simp] theorem peek_adcL : peek .adcL s = s.adcL := rfl

@[simp] theorem peek_adcH : peek .adcH s = s.adcLatch.getD s.adcH := rfl

@[simp] theorem peek_btn : peek .btn s = (BitVec.ofBool s.btnN).setWidth 8 := rfl

@[simp] theorem peek_trig : peek .trig s = s.adcTrig.setWidth 8 := rfl

theorem peek_gamma (i : Fin 16) (t : State) : peek (.gamma i) t = peek (.gamma i) s := rfl

/-- Two states that agree on the registers behind a location agree on the location. -/
theorem peek_congr {s t : State} (l : Loc) (hbuf : t.buf = s.buf) (hports : t.ports = s.ports) (hL : t.adcL = s.adcL)
    (hH : t.adcH = s.adcH) (hlatch : t.adcLatch = s.adcLatch) (hbtn : t.btnN = s.btnN) (htrig : t.adcTrig = s.adcTrig) :
    peek l t = peek l s := by
  cases l
  case buf i => rw [peek_buf, peek_buf, hbuf]
  case port p => rw [peek_port, peek_port, hports]
  case adcL => rw [peek_adcL, peek_adcL, hL]
  case adcH => rw [peek_adcH, peek_adcH, hlatch, hH]
  case btn => rw [peek_btn, peek_btn, hbtn]
  case trig => rw [peek_trig, peek_trig, htrig]
  case gamma i => rfl

/-! ### What the small definitions see -/

@[simp] theorem qualifiedPress_clearPending (src : Source) : qualifiedPress (clearPending src s) = qualifiedPress s := rfl

@[simp] theorem modeAfterButton_clearPending (src : Source) : modeAfterButton (clearPending src s) = modeAfterButton s := rfl

@[simp] theorem drivesPorts_clearPending (src : Source) : drivesPorts (clearPending src s) = drivesPorts s := rfl

theorem effMode_controlHandler : effMode (controlHandler s).mode = modeAfterButton s := by
  rw [controlHandler_mode, effMode_buttonStep]

theorem outputs_eq_iff {s t : State} : outputs t = outputs s ↔ t.ports = s.ports ∧ t.adcTrig = s.adcTrig := by
  simp only [outputs, Outputs.mk.injEq, Ports.ext_iff]
  tauto

end Sys2Proof.Machine
end

