-- ==== Sys2Proof/Laws/PerInstr.lean ====
section
/-! SUPPORT. Per operation: the fields the encoder gives an operation pass every check of WellFormed.lean. -/

namespace Sys2Proof.Laws.EncodedFields

/-- The encoder's fields of an operation are well formed (30_encoding.md R61). -/
def Statement (i : Instr) : Prop := (fieldsOfInstr i).wellFormed = true

theorem nop : Statement .nop := rfl

theorem rst : Statement .rst := rfl

theorem start : Statement .start := rfl

theorem stop : Statement .stop := rfl

theorem tickc : Statement .tickc := rfl

theorem tickr : Statement .tickr := rfl

theorem adcdone (v : Sample) : Statement (.adcdone v) := rfl

theorem btn (level : Bool) : Statement (.btn level) := by cases level <;> rfl

theorem pinwr (p : Port) (v : Byte) : Statement (.pinwr p v) := by
  have hv : (v.setWidth 16).toNat < 256 := by simp; omega
  have hdata : (fieldsOfInstr (.pinwr p v)).dataOk = true := by
    simp only [fieldsOfInstr, Fields.dataOk]
    simpa using hv
  cases p <;> simp only [Statement, Fields.wellFormed, hdata] <;> rfl

theorem isrc : Statement .isrc := rfl

theorem isrr : Statement .isrr := rfl

theorem isrs : Statement .isrs := rfl

end Sys2Proof.Laws.EncodedFields
end

