-- ==== Sys2Proof/Laws/Step.lean ====
section
/-! SUPPORT. What the next operation is, case by case, and what a step that answers a next state can have done: cited
instead of unfolding `step` and `nextOp`. -/

namespace Sys2Proof.Machine

variable {s : State}

theorem nextOp_badConfig (hc : configOk s.cfg = false) : nextOp s = .refuse .badConfig := by
  simp [nextOp, hc]

theorem nextOp_legal {w : Word} {rest : List Word} {i : Instr} (hc : configOk s.cfg = true) (hs : s.schedule = w :: rest)
    (hd : decode w = .ok i) : nextOp s = .perform i { s with schedule := rest } := by
  unfold nextOp
  rw [if_pos hc, hs]
  simp only [hd]

theorem nextOp_illegal {w : Word} {rest : List Word} {e : DecodeError} (hc : configOk s.cfg = true)
    (hs : s.schedule = w :: rest) (hd : decode w = .error e) : nextOp s = .refuse (.illegalWord w) := by
  unfold nextOp
  rw [if_pos hc, hs]
  simp only [hd]

/-- With nothing scheduled and a handler enabled, one of the enabled handlers is next. -/
theorem nextOp_owed (hc : configOk s.cfg = true) (hs : s.schedule = []) (he : enabledSources s ≠ []) :
    ∃ src, enabled s src = true ∧ nextOp s = .perform src.handler { s with draws := s.draws + 1 } := by
  obtain ⟨src, hmem, hpick⟩ := pickSource_mem (Config.dispatchChoice s.draws) he
  refine ⟨src, (mem_enabledSources s src).mp hmem, ?_⟩
  unfold nextOp
  rw [if_pos hc, hs]
  simp only [hpick]

theorem nextOp_idle (hc : configOk s.cfg = true) (hs : s.schedule = []) (he : enabledSources s = []) : nextOp s = .idle := by
  unfold nextOp
  rw [if_pos hc, hs]
  simp only [he, pickSource]

theorem step_of_perform {i : Instr} {t : State} (h : nextOp s = .perform i t) : step s = exec i t := by
  simp only [step, h]

theorem step_of_idle (h : nextOp s = .idle) : step s = .next s := by
  simp only [step, h]

theorem step_of_refuse {r : Refusal} (h : nextOp s = .refuse r) : step s = .refused r := by
  simp only [step, h]

/-- A step that answers a next state performed an operation, from a state that differs only in the model's own two
fields, or idled. -/
theorem step_next_cases {t : State} (h : step s = .next t) :
    (∃ i rest draws, exec i { s with schedule := rest, draws := draws } = .next t) ∨ t = s := by
  cases hc : configOk s.cfg
  · rw [step_of_refuse (nextOp_badConfig hc)] at h
    cases h
  · cases hs : s.schedule with
    | cons w rest =>
      cases hd : decode w with
      | ok i =>
        rw [step_of_perform (nextOp_legal hc hs hd)] at h
        exact .inl ⟨i, rest, s.draws, h⟩
      | error e =>
        rw [step_of_refuse (nextOp_illegal hc hs hd)] at h
        cases h
    | nil =>
      by_cases he : enabledSources s = []
      · rw [step_of_idle (nextOp_idle hc hs he)] at h
        cases h
        exact .inr rfl
      · obtain ⟨src, -, hn⟩ := nextOp_owed hc hs he
        rw [step_of_perform hn] at h
        exact .inl ⟨src.handler, s.schedule, s.draws + 1, h⟩

/-- Only a dispatcher operation is ever refused by `exec`, and only when its handler is not enabled. -/
theorem exec_refused_cases {i : Instr} {r : Refusal} (h : exec i s = .refused r) :
    ∃ src, i = Source.handler src ∧ enabled s src = false ∧ r = .notEnabled src := by
  have hi : ∃ src, i = Source.handler src := by
    cases i <;> first | exact ⟨.control, rfl⟩ | exact ⟨.refresh, rfl⟩ | exact ⟨.sample, rfl⟩ | cases h
  obtain ⟨src, rfl⟩ := hi
  rcases exec_handler_cases s src with ⟨_, e⟩ | ⟨he, e⟩
  · rw [e] at h
    cases h
  · rw [e] at h
    cases h
    exact ⟨src, rfl, he, rfl⟩

end Sys2Proof.Machine
end

