-- ==== Sys2Proof/Tests/Slice0.lean ====
section
/-! SUPPORT. The author's tests. Expected values are those of spec/95_test_vectors.md (V.. and P..) or of the worked example
of the rule named; a witness shows that the hypotheses of a statement can be met together. -/

namespace Sys2Proof.Tests

open Sys2Proof Sys2Proof.Machine

/-! ### Ill-formed fields are refused, check by check (30_encoding.md R61, R63) -/

theorem test_reserved_op_is_ill_formed :
    (Fields.mk 0xC#4 0#4 0#16).opKnown = false ∧ (Fields.mk 0xC#4 0#4 0#16).wellFormed = false := by decide

theorem test_sel_of_nop_is_ill_formed :
    (Fields.mk 0x0#4 1#4 0#16).selOk = false ∧ (Fields.mk 0x0#4 1#4 0#16).wellFormed = false := by decide

theorem test_sel_of_pinwr_is_ill_formed :
    (Fields.mk 0x8#4 4#4 0#16).selOk = false ∧ (Fields.mk 0x8#4 4#4 0#16).wellFormed = false := by decide

theorem test_data_of_isrc_is_ill_formed :
    (Fields.mk 0x9#4 0#4 1#16).dataOk = false ∧ (Fields.mk 0x9#4 0#4 1#16).wellFormed = false := by decide

theorem test_data_of_btn_is_ill_formed :
    (Fields.mk 0x7#4 0#4 2#16).dataOk = false ∧ (Fields.mk 0x7#4 0#4 2#16).wellFormed = false := by decide

theorem test_data_of_pinwr_is_ill_formed :
    (Fields.mk 0x8#4 0#4 0x100#16).dataOk = false ∧ (Fields.mk 0x8#4 0#4 0x100#16).wellFormed = false := by decide

/-! ### Decoding of words written out from 30_encoding.md R60 to R62: `op`, `sel`, `data` -/

theorem test_decode_nop : decode 0b0000_0000_0000000000000000#24 = .ok .nop := by decide

theorem test_decode_rst : decode 0b0001_0000_0000000000000000#24 = .ok .rst := by decide

theorem test_decode_start : decode 0b0010_0000_0000000000000000#24 = .ok .start := by decide

theorem test_decode_stop : decode 0b0011_0000_0000000000000000#24 = .ok .stop := by decide

theorem test_decode_tickc : decode 0b0100_0000_0000000000000000#24 = .ok .tickc := by decide

theorem test_decode_tickr : decode 0b0101_0000_0000000000000000#24 = .ok .tickr := by decide

theorem test_decode_adcdone : decode 0b0110_0000_1000000000000011#24 = .ok (.adcdone 0x8003#16) := by decide

theorem test_decode_btn :
    decode 0b0111_0000_0000000000000000#24 = .ok (.btn false) ∧
      decode 0b0111_0000_0000000000000001#24 = .ok (.btn true) := by decide

theorem test_decode_pinwr :
    decode 0b1000_0000_0000000011111100#24 = .ok (.pinwr .b 0xFC#8) ∧
      decode 0b1000_0001_0000000010000001#24 = .ok (.pinwr .c 0x81#8) ∧
      decode 0b1000_0010_0000000000000011#24 = .ok (.pinwr .d 0x03#8) ∧
      decode 0b1000_0011_0000000011111111#24 = .ok (.pinwr .e 0xFF#8) := by decide

theorem test_decode_isrc : decode 0b1001_0000_0000000000000000#24 = .ok .isrc := by decide

theorem test_decode_isrr : decode 0b1010_0000_0000000000000000#24 = .ok .isrr := by decide

theorem test_decode_isrs : decode 0b1011_0000_0000000000000000#24 = .ok .isrs := by decide

/-- V87, V89, V91, V93 to V96. -/
theorem test_decode_illegal :
    decode 0x000001#24 = .error .dataNotZero ∧ decode 0x610000#24 = .error .selNotZero ∧
      decode 0x700002#24 = .error .dataNotZero ∧ decode 0x840000#24 = .error .selNotZero ∧
      decode 0x800100#24 = .error .dataNotZero ∧ decode 0x900001#24 = .error .dataNotZero ∧
      decode 0xC00000#24 = .error .reservedOp ∧ decode 0xD00000#24 = .error .reservedOp ∧
      decode 0xE00000#24 = .error .reservedOp ∧ decode 0xF00000#24 = .error .reservedOp := by decide

theorem test_decode_table_word :
    decodeTableWord 24 0x6000F3 = some (.adcdone 0xF3#16) ∧ decodeTableWord 24 0xC00000 = none := by decide

/-- A word placed for the fetch is what the next step runs. -/
theorem test_fetch_runs_the_word :
    step (State.reset.withFetchWord 24 0x200000) = .next { State.reset with gie := true } ∧
      step (State.reset.withFetchWord 24 0xC00000) = .refused (.illegalWord 0xC00000#24) := ⟨rfl, rfl⟩

/-! ### A small state: preemption on, all three flags set, otherwise as after reset -/

def ready : State := { State.reset with gie := true, pend := ⟨true, true, true⟩ }

/-- The registers a control step works on. -/
def withButton (btnN : Bool) (debounce : Byte) (mode : BitVec 2) (s : State) : State :=
  { s with btnN := btnN, debounce := debounce, mode := mode }

/-- The registers a sample step works on. -/
def withSample (mode : BitVec 2) (hi lo : Byte) (s : State) : State := { s with mode := mode, adcH := hi, adcL := lo }

/-- A field of the next state, if there is one. -/
def after {α : Type} (f : State → α) : Host.Outcome State Fault Refusal → Option α
  | .next t => some (f t)
  | .fault _ => none
  | .refused _ => none

/-! ### One step of each operation -/

theorem test_nop : exec .nop ready = .next ready := rfl

/-- V84: the values of 70_reset_and_hazards.md R186, foreign port bits kept. -/
theorem test_rst_registers :
    after (fun t => ((t.mode, t.adcTrig, t.debounce), (t.slice, t.phase), (t.pend, t.gie)))
      (exec .rst { ready with mode := 1#2, adcTrig := 2#2, debounce := 7#8, slice := 32#8, phase := 9#16 }) =
      some ((2#2, 0#2, 0#8), (0#8, 0#16), (⟨false, false, false⟩, false)) := by decide

theorem test_rst_ports :
    after (fun t => t.ports) (exec .rst { ready with ports := ⟨0xFC#8, 0x00#8, 0x01#8, 0xFF#8⟩ }) =
      some ⟨0xFF#8, 0x3C#8, 0xFD#8, 0xFF#8⟩ := by decide

/-- V79. -/
theorem test_start_enables : after (fun t => enabled t .refresh)
    (exec .start { State.reset with pend := ⟨false, true, false⟩ }) = some true := by decide

theorem test_stop_disables : after (fun t => (t.gie, enabled t .refresh, t.pend.r)) (exec .stop ready) =
    some (false, false, true) := by decide

theorem test_tickc : after (fun t => t.pend) (exec .tickc State.reset) = some ⟨true, false, false⟩ := by decide

/-- V77, V78. -/
theorem test_tickr :
    after (fun t => (t.pend, enabled t .refresh)) (exec .tickr State.reset) = some (⟨false, true, false⟩, false) ∧
      after (fun t => t.pend.r) (exec .tickr { State.reset with pend := ⟨false, true, false⟩ }) = some true := by decide

/-- R146. -/
theorem test_adcdone : after (fun t => (t.adcH, t.adcL, t.pend)) (exec (.adcdone 0x0155#16) State.reset) =
    some (0x01#8, 0x55#8, ⟨false, false, true⟩) := by decide

/-- V82. -/
theorem test_adcdone_newer : after (fun t => (t.adcH, t.adcL, t.pend.s))
    (exec (.adcdone 0x0024#16) (withSample 0#2 0x00#8 0x10#8 ready)) = some (0x00#8, 0x24#8, true) := by decide

theorem test_btn :
    after (fun t => t.btnN) (exec (.btn false) State.reset) = some false ∧
      after (fun t => t.btnN) (exec (.btn true) { State.reset with btnN := false }) = some true := by decide

/-- V83. -/
theorem test_pinwr :
    after (fun t => t.ports.d) (exec (.pinwr .d 0x01#8) State.reset) = some 0xFD#8 ∧
      after (fun t => t.ports.d) (exec (.pinwr .d 0xFF#8) State.reset) = some 0xFF#8 ∧
      after (fun t => t.ports.d) (exec (.pinwr .d 0x00#8) State.reset) = some 0xFC#8 := by decide

theorem test_pinwr_keeps_other_ports :
    after (fun t => (t.ports.b, t.ports.c, t.ports.e)) (exec (.pinwr .d 0xFF#8) State.reset) =
      some (0x03#8, 0x3C#8, 0x0F#8) := by decide

/-- V40 to V43c: `debounce`, `mode` and `adc_trig` after one `ISRC`. -/
theorem test_isrc_button :
    after (fun t => (t.debounce, t.mode, t.adcTrig)) (exec .isrc (withButton false 0#8 2#2 ready)) = some (16#8, 0#2, 1#2) ∧
      after (fun t => (t.debounce, t.mode)) (exec .isrc (withButton false 16#8 0#2 ready)) = some (15#8, 0#2) ∧
      after (fun t => (t.debounce, t.mode)) (exec .isrc (withButton false 1#8 0#2 ready)) = some (0#8, 0#2) ∧
      after (fun t => (t.debounce, t.mode, t.adcTrig)) (exec .isrc (withButton false 0#8 0#2 ready)) =
        some (16#8, 1#2, 2#2) ∧
      after (fun t => (t.debounce, t.mode)) (exec .isrc (withButton true 0#8 1#2 ready)) = some (0#8, 1#2) ∧
      after (fun t => (t.debounce, t.mode)) (exec .isrc (withButton true 5#8 1#2 ready)) = some (4#8, 1#2) ∧
      after (fun t => (t.debounce, t.mode, t.adcTrig)) (exec .isrc (withButton false 0#8 3#2 ready)) =
        some (16#8, 0#2, 1#2) := by decide

/-- R110 and V53 to V54: the frame of the phase just advanced, the wrap of the phase, and the buffer outside Attract. -/
theorem test_isrc_frame :
    after (fun t => (t.phase, t.buf)) (exec .isrc ready) =
        some (323#16, #v[0#8, 188#8, 66#8, 0#8, 0#8, 0#8, 0#8, 0#8, 0#8, 0#8, 0#8, 0#8, 0#8, 0#8, 0#8, 0#8]) ∧
      after (fun t => (t.phase, t.buf)) (exec .isrc { ready with phase := 3876#16 }) =
        some (103#16, #v[152#8, 102#8, 0#8, 0#8, 0#8, 0#8, 0#8, 0#8, 0#8, 0#8, 0#8, 0#8, 0#8, 0#8, 0#8, 0#8]) ∧
      after (fun t => (t.phase, t.buf)) (exec .isrc (withButton true 0#8 0#2 ready)) = some (323#16, gamma) := by decide

/-- V56 and V57. -/
theorem test_isrr_attract :
    after (fun t => (t.slice, t.ports)) (exec .isrr ready) = some (16#8, ⟨0x00#8, 0x3C#8, 0x04#8, 0x00#8⟩) ∧
      after (fun t => (t.slice, t.ports)) (exec .isrr { ready with slice := 240#8 }) =
        some (0#8, ⟨0x00#8, 0x00#8, 0x04#8, 0x00#8⟩) := by decide

/-- V58. -/
theorem test_isrr_gated :
    after (fun t => (t.slice, t.ports))
      (exec .isrr { ready with mode := 0#2, ports := ⟨0x03#8, 0x00#8, 0xF8#8, 0x0F#8⟩ }) =
      some (16#8, ⟨0x03#8, 0x00#8, 0xF8#8, 0x0F#8⟩) := by decide

/-- V66 to V68 and V72: ports after one `ISRS`; the wraps and both modes. -/
theorem test_isrs_bar :
    after (fun t => t.ports) (exec .isrs (withSample 0#2 0x00#8 0x50#8 ready)) =
        some ⟨0x03#8, 0x00#8, 0xF8#8, 0x0F#8⟩ ∧
      after (fun t => t.ports) (exec .isrs (withSample 1#2 0x00#8 0x3C#8 ready)) =
        some ⟨0x00#8, 0x00#8, 0x08#8, 0x00#8⟩ ∧
      after (fun t => t.ports) (exec .isrs (withSample 1#2 0x00#8 0x40#8 ready)) =
        some ⟨0x03#8, 0x3C#8, 0xFC#8, 0x0F#8⟩ ∧
      after (fun t => t.ports) (exec .isrs (withSample 0#2 0x01#8 0x00#8 ready)) =
        some ⟨0x03#8, 0x3C#8, 0xFC#8, 0x0F#8⟩ := by decide

/-- V76. -/
theorem test_isrs_attract :
    exec .isrs (withSample 3#2 0x03#8 0xFF#8 ready) =
      .next (withSample 3#2 0x03#8 0xFF#8 { ready with pend := ⟨true, true, false⟩ }) := rfl

/-- V80. -/
theorem test_isrc_not_enabled :
    exec .isrc { ready with pend := ⟨false, true, true⟩ } = .refused (.notEnabled .control) := rfl

/-! ### Tables of the spec -/

/-- V1 to V14. -/
theorem test_encoder_vectors :
    ([0x0000#16, 0xFFFF#16, 0x0001#16, 0x8000#16, 0x7FFF#16, 0x00FF#16, 0x0180#16].map fun P =>
        encodePorts boardPinTable P ⟨0#8, 0#8, 0#8, 0#8⟩) =
      [⟨0x03#8, 0x3C#8, 0xFC#8, 0x0F#8⟩, ⟨0x00#8, 0x00#8, 0x00#8, 0x00#8⟩, ⟨0x03#8, 0x3C#8, 0xF8#8, 0x0F#8⟩,
       ⟨0x03#8, 0x3C#8, 0xF4#8, 0x0F#8⟩, ⟨0x00#8, 0x00#8, 0x08#8, 0x00#8⟩, ⟨0x01#8, 0x00#8, 0xF8#8, 0x03#8⟩,
       ⟨0x00#8, 0x3C#8, 0xFC#8, 0x0F#8⟩] ∧
    ([0xAAAA#16, 0x5555#16, 0x1234#16, 0x000F#16, 0x00F0#16, 0x0F00#16, 0xF000#16].map fun P =>
        encodePorts boardPinTable P ⟨0#8, 0#8, 0#8, 0#8⟩) =
      [⟨0x01#8, 0x14#8, 0x54#8, 0x06#8⟩, ⟨0x02#8, 0x28#8, 0xA8#8, 0x09#8⟩, ⟨0x03#8, 0x28#8, 0x7C#8, 0x05#8⟩,
       ⟨0x03#8, 0x04#8, 0xF8#8, 0x0F#8⟩, ⟨0x01#8, 0x38#8, 0xFC#8, 0x03#8⟩, ⟨0x02#8, 0x3C#8, 0x1C#8, 0x0F#8⟩,
       ⟨0x03#8, 0x3C#8, 0xE4#8, 0x0C#8⟩] := by decide

/-- V15 to V18. -/
theorem test_encoder_foreign_bits :
    encodePorts boardPinTable 0x0000#16 ⟨0xA8#8, 0x41#8, 0x01#8, 0x50#8⟩ = ⟨0xAB#8, 0x7D#8, 0xFD#8, 0x5F#8⟩ ∧
      encodePorts boardPinTable 0xFFFF#16 ⟨0xFC#8, 0xC3#8, 0x03#8, 0xF0#8⟩ = ⟨0xFC#8, 0xC3#8, 0x03#8, 0xF0#8⟩ ∧
      decodePorts boardPinTable ⟨0x01#8, 0x14#8, 0x54#8, 0x06#8⟩ = 0xAAAA#16 ∧
      decodePorts boardPinTable ⟨0xFD#8, 0xD7#8, 0x57#8, 0xF6#8⟩ = 0xAAAA#16 := by decide

/-- 10_state.md R15. -/
theorem test_masks :
    portMask boardPinTable .b = 0x03#8 ∧ portMask boardPinTable .c = 0x3C#8 ∧ portMask boardPinTable .d = 0xFC#8 ∧
      portMask boardPinTable .e = 0x0F#8 := by decide

/-- V19 to V32, strict. -/
theorem test_builder_strict :
    ([0#8, 16#8, 32#8, 48#8, 64#8, 80#8, 96#8, 112#8, 128#8, 144#8, 160#8, 176#8, 208#8, 240#8, 255#8].map
        (buildPattern false gamma)) =
      [0xFFFE#16, 0xFFE0#16, 0xFFC0#16, 0xFF80#16, 0xFE00#16, 0xFE00#16, 0xFC00#16, 0xF800#16, 0xF000#16, 0xE000#16,
       0xE000#16, 0xC000#16, 0x8000#16, 0x8000#16, 0x0000#16] := by decide

/-- V19 to V32, inclusive. -/
theorem test_builder_inclusive :
    ([0#8, 16#8, 64#8, 144#8, 255#8].map (buildPattern true gamma)) =
      [0xFFFF#16, 0xFFF0#16, 0xFF00#16, 0xF000#16, 0x8000#16] := by decide

/-- V38, V39. -/
theorem test_mode_machine :
    ([0#2, 1#2, 2#2, 3#2].map fun m => modeCode (nextMode (effMode m))) = [1#2, 2#2, 0#2, 0#2] ∧
      ([Mode.direct, Mode.vu, Mode.attract].map fun m => trigCode (trigOf m)) = [1#2, 2#2, 0#2] ∧
      effMode 3#2 = .attract := by decide

/-- The levels of LEDs 0 to 15. -/
def frame (bits ph : Nat) : List Nat := (List.finRange 16).map fun i => (attractLevel bits i ph).toNat

/-- V44 to V48. -/
theorem test_frames_at_the_ends :
    frame 12 0 = [255, 0, 0, 0, 0, 0, 0, 0, 0, 0, 0, 0, 0, 0, 0, 0] ∧
      frame 12 128 = [127, 127, 0, 0, 0, 0, 0, 0, 0, 0, 0, 0, 0, 0, 0, 0] ∧
      frame 12 4095 = [254, 0, 0, 0, 0, 0, 0, 0, 0, 0, 0, 0, 0, 0, 0, 0] ∧
      frame 12 3968 = [127, 0, 0, 0, 0, 0, 0, 0, 0, 0, 0, 0, 0, 0, 0, 127] ∧
      frame 12 4000 = [159, 0, 0, 0, 0, 0, 0, 0, 0, 0, 0, 0, 0, 0, 0, 95] := by decide

/-- V50 to V55 and the frames of the wider track. -/
theorem test_frames_along_the_track :
    frame 12 646 = [0, 0, 121, 133, 0, 0, 0, 0, 0, 0, 0, 0, 0, 0, 0, 0] ∧
      frame 12 969 = [0, 0, 0, 54, 200, 0, 0, 0, 0, 0, 0, 0, 0, 0, 0, 0] ∧
      frame 12 1292 = [0, 0, 0, 0, 0, 243, 11, 0, 0, 0, 0, 0, 0, 0, 0, 0] ∧
      frame 12 3876 = [35, 0, 0, 0, 0, 0, 0, 0, 0, 0, 0, 0, 0, 0, 0, 219] ∧
      frame 12 3759 = [0, 0, 0, 0, 0, 0, 0, 0, 0, 0, 0, 0, 0, 0, 80, 174] ∧
      frame 16 323 = [0, 188, 66, 0, 0, 0, 0, 0, 0, 0, 0, 0, 0, 0, 0, 0] ∧
      frame 16 4095 = [0, 0, 0, 0, 0, 0, 0, 0, 0, 0, 0, 0, 0, 0, 0, 0] ∧
      frame 16 65535 = [254, 0, 0, 0, 0, 0, 0, 0, 0, 0, 0, 0, 0, 0, 0, 0] := by decide

/-- V60 to V75, the Direct, VU and alternate columns. -/
theorem test_quantize_vectors :
    ([0x0000#16, 0x0003#16, 0x0004#16, 0x000F#16, 0x0010#16, 0x003B#16, 0x003C#16, 0x0040#16, 0x0050#16, 0x00EF#16,
        0x00F0#16, 0x00FF#16, 0x0100#16, 0x0155#16, 0x03FF#16, 0xFFFF#16].map fun v =>
          ((quantize 4 v).toNat, (quantize 2 v).toNat, (quantize 6 v).toNat)) =
      [(0, 0, 0), (0, 0, 0), (0, 1, 0), (0, 3, 0), (1, 4, 0), (3, 14, 0), (3, 15, 0), (4, 0, 1), (5, 4, 1), (14, 11, 3),
       (15, 12, 3), (15, 15, 3), (0, 0, 4), (5, 5, 5), (15, 15, 15), (15, 15, 15)] := by decide

/-- 30_encoding.md R69. -/
theorem test_thermo :
    thermo 0#4 = 0x0000#16 ∧ thermo 1#4 = 0x0001#16 ∧ thermo 8#4 = 0x00FF#16 ∧ thermo 15#4 = 0x7FFF#16 := by decide

/-! ### Premise (b) of 46_environment_ops.md R150, as log 19 reads it -/

/-- Two overflows allow two results; one does not, and none is allowed by an overflow from before Direct mode. -/
theorem test_one_conversion_per_tick :
    oneConversionPerTick 0 (([.tickc, .tickc, .adcdone 0#16, .adcdone 1#16] : List Instr).map fun i =>
        ({ ready with adcTrig := 1#2 }, i)) = true ∧
      oneConversionPerTick 0 (([.tickc, .adcdone 0#16, .adcdone 1#16] : List Instr).map fun i =>
        ({ ready with adcTrig := 1#2 }, i)) = false ∧
      oneConversionPerTick 0 [(ready, .tickc), ({ ready with adcTrig := 1#2 }, .adcdone 0#16)] = false ∧
      oneConversionPerTick 0 (([.adcdone 0#16, .adcdone 1#16] : List Instr).map fun i =>
        ({ ready with adcTrig := 2#2 }, i)) = true := by decide

/-! ### Text form and wires -/

/-- The first lines of P3 and a line of P5, with a comment, and the repeated form. -/
theorem test_text :
    assembleWords "RST ; 100000\nSTART\nBTN 0 ; press\nCT\nBTN 1\nADCDONE 0x0050\nISRS\nPINWR D, 0x03\nRT * 2\nSMP 243" =
      some [0x100000#24, 0x200000#24, 0x700000#24, 0x400000#24, 0x900000#24, 0x700001#24, 0x600050#24, 0xB00000#24,
        0x820003#24, 0x500000#24, 0xA00000#24, 0x500000#24, 0xA00000#24, 0x6000F3#24, 0xB00000#24] := by decide

theorem test_text_refused :
    assembleWords "BTN 2" = none ∧ assembleWords "PINWR F, 0" = none ∧ assembleWords "nop" = none ∧
      assembleWords "ADCDONE 65536" = none := by decide

theorem test_wires :
    (Wire.evSample 0x01#8 0x55#8).op = .adcdone 0x0155#16 ∧ (Wire.foreignBits .d 1#8).op = .pinwr .d 1#8 ∧
      outputs State.reset = ⟨0x03#8, 0x3C#8, 0xFC#8, 0x0F#8, 0#2⟩ := by decide

/-! ### Witnesses: the hypotheses of each statement of Obligations.lean, met together -/

theorem witness_EncodeOfDecodeIsTheWord : decode 0x8300FF#24 = .ok (.pinwr .e 0xFF#8) := by decide

theorem witness_LegalWordsAreThoseOfTheOpcodeRows :
    (⟨"BTN", 0xFFFFFE#24, 0x700000#24⟩ : OpcodeRow) ∈ opcodeTable := by decide

/-- `RST`: each boot mode, and the board's pins with foreign bits 0. -/
theorem witness_RstSetsTheBlockRegisters :
    State.reset.cfg.bootMode = .attract ∧ (State.powerUp { defaultConfig with bootMode := .direct }).cfg.bootMode = .direct ∧
      (State.powerUp { defaultConfig with bootMode := .vu }).cfg.bootMode = .vu ∧
      State.reset.cfg.pinTable = boardPinTable ∧
      ∀ p, State.reset.ports.get p &&& ~~~portMask boardPinTable p = 0#8 :=
  ⟨rfl, rfl, rfl, rfl, fun p => by cases p <;> decide⟩

theorem witness_StartEnablesPreemption : ready.pend.get .refresh = true := rfl

/-- `STOP`: a schedule without `START` that runs from a state with preemption off. -/
theorem witness_StopDisablesPreemptionUntilStart :
    State.reset.gie = false ∧ Instr.start ∉ [Instr.tickc, .btn false, .tickr] ∧
      ∃ t, performAll [.tickc, .btn false, .tickr] State.reset = .next t := ⟨rfl, by decide, _, rfl⟩

theorem witness_BtnDrivesThePin : State.reset.btnN = true := rfl

/-- `PINWR`: a display bit and a foreign bit of port D, the state of the example, and a step that changes a port bit. -/
theorem witness_PinwrWritesOnlyForeignBits :
    IsDisplayBit State.reset.cfg.pinTable .d 2 ∧ ¬ IsDisplayBit State.reset.cfg.pinTable .d 1 ∧
      State.reset.cfg.pinTable = boardPinTable ∧ State.reset.ports.d = 0xFC#8 ∧
      (∃ t, exec (.pinwr .d 1#8) State.reset = .next t ∧
        (t.ports.get .d).getLsbD (0 : Fin 8) ≠ (State.reset.ports.get .d).getLsbD (0 : Fin 8)) :=
  ⟨⟨0, by decide⟩, by unfold IsDisplayBit; decide, rfl, by decide, _, rfl, by decide⟩

theorem witness_FlagWaitsForItsHandler :
    eventOf (.adcdone 0#16) = some .sample ∧
      ((∃ t, exec .isrc ready = .next t) ∧ ready.pend.get .refresh = true ∧ Instr.isrc ≠ Source.refresh.handler ∧
        Instr.isrc ≠ .rst) := ⟨rfl, ⟨_, rfl⟩, rfl, by decide, by decide⟩

/-- A run without `RST` in which no event arrives while its flag is set. -/
theorem witness_EventsMergeAndAreNeverQueued :
    Instr.rst ∉ [Instr.start, .tickr, .isrr, .tickr] ∧
      (∃ t, performAll [.start, .tickr, .isrr, .tickr] State.reset = .next t) ∧
      noOverrun (traceOf [.start, .tickr, .isrr, .tickr] State.reset) = true := ⟨by decide, ⟨_, rfl⟩, rfl⟩

theorem witness_HandlerStepExistsIffEnabled :
    (Instr.btn true).served = none ∧ ready.gie = true ∧ ready.pend.c = true ∧ enabled ready .sample = true :=
  ⟨rfl, rfl, rfl, rfl⟩

theorem witness_DispatchClearsOnlyItsOwnFlag :
    ready.gie = true ∧ ready.pend.get .sample = true ∧ Source.refresh ≠ .sample := ⟨rfl, rfl, by decide⟩

/-- Both premises: no result at all, and results only outside the run. -/
theorem witness_NoSampleHandlerWithoutConversion :
    State.reset.pend.s = false ∧ (∀ v, Instr.adcdone v ∉ [Instr.start, .tickr, .isrr]) ∧
      (∃ t, performAll [.start, .tickr, .isrr] State.reset = .next t) ∧
      (∀ x ∈ traceOf [.start, .tickr, .isrr] State.reset, sampling x.1 = false) ∧
      converterObeys false (traceOf [.start, .tickr, .isrr] State.reset) = true := by
  refine ⟨rfl, fun v => by simp, ⟨_, rfl⟩, ?_, rfl⟩
  have h : (traceOf [.start, .tickr, .isrr] State.reset).all (fun x => !sampling x.1) = true := rfl
  intro x hx
  simpa using List.all_eq_true.mp h x hx

theorem witness_EncoderDrivesInvertedBits :
    pinTableInjective State.reset.cfg.pinTable = true ∧ ¬ IsDisplayBit State.reset.cfg.pinTable .b 7 ∧
      ∀ p, (⟨0#8, 0#8, 0#8, 0#8⟩ : Ports).get p &&& ~~~portMask boardPinTable p = 0#8 :=
  ⟨by decide, by unfold IsDisplayBit; decide, fun p => by cases p <;> decide⟩

theorem witness_EncodeThenDecodePortsIsThePattern : pinTableInjective boardPinTable = true := by decide

/-- The strict comparison lights entry 9 (81) at 64 and so at 16. -/
theorem witness_BuildPatternIsMonotone :
    (16#8).toNat ≤ (64#8).toNat ∧ (buildPattern false gamma 64#8).getLsbD (9 : Fin 16) = true := by decide

theorem witness_NextModeIsTheCycle : (2#2 : BitVec 2) ≠ 3#2 := by decide

theorem witness_TransitionWritesModeAndTrigger :
    ({ ready with mode := 1#2, adcTrig := 2#2 } : State).mode = 1#2 ∧
      ({ ready with mode := 1#2, adcTrig := 2#2 } : State).adcTrig = 2#2 := ⟨rfl, rfl⟩

/-- The out-of-range mode under each handler; for `ISRC` with the button released, and pressed inside the window. -/
theorem witness_OutOfRangeModeReadsAsAttract :
    ({ ready with mode := 3#2 } : State).mode = 3#2 ∧ (∃ t, exec .isrr { ready with mode := 3#2 } = .next t) ∧
      (∃ t, exec .isrs { ready with mode := 3#2 } = .next t) ∧
      ((withButton true 0#8 3#2 ready).btnN = true ∧ ∃ t, exec .isrc (withButton true 0#8 3#2 ready) = .next t) ∧
      ((withButton false 1#8 3#2 ready).debounce ≠ 0#8 ∧ ∃ t, exec .isrc (withButton false 1#8 3#2 ready) = .next t) :=
  ⟨rfl, ⟨_, rfl⟩, ⟨_, rfl⟩, ⟨rfl, _, rfl⟩, ⟨by decide, _, rfl⟩⟩

/-- `ISRC` enabled: with a qualified press, without one, ending in Attract and ending elsewhere. -/
theorem witness_IsrcStep :
    configOk ready.cfg = true ∧ ready.gie = true ∧ ready.pend.c = true ∧
      ¬ (ready.btnN = false ∧ ready.debounce = 0#8) ∧ modeAfterButton ready = .attract ∧
      ((withButton false 0#8 2#2 ready).btnN = false ∧ (withButton false 0#8 2#2 ready).debounce = 0#8 ∧
        modeAfterButton (withButton false 0#8 2#2 ready) = .direct) :=
  ⟨by decide, rfl, rfl, by decide, by decide, rfl, rfl, by decide⟩

/-- The four cases, the counter at 0 and at its least and largest nonzero values. -/
theorem witness_ButtonAndDebounceCases :
    ready.gie = true ∧ ready.pend.c = true ∧ (withButton false 0#8 0#2 ready).debounce = 0#8 ∧
      0 < (withButton false 1#8 0#2 ready).debounce.toNat ∧ 0 < (withButton true 255#8 0#2 ready).debounce.toNat ∧
      ∃ t, performAll [.start, .btn false, .tickc, .isrc] State.reset = .next t :=
  ⟨rfl, rfl, rfl, by decide, by decide, _, rfl⟩

/-- The phase at the end of the track. -/
theorem witness_PhaseOrbitIsTheWholeTrack :
    configOk ({ ready with phase := 4095#16 } : State).cfg = true ∧ ({ ready with phase := 4095#16 } : State).gie = true ∧
      ({ ready with phase := 4095#16 } : State).phase.toNat < 2 ^ ({ ready with phase := 4095#16 } : State).cfg.phaseBits :=
  ⟨by decide, rfl, by decide⟩

/-- The ends of the allowed widths and of the track, and two LEDs lit at once across the wrap. -/
theorem witness_AttractLevelIsTheCircularPulse :
    (12 ≤ 12 ∧ 12 ≤ 16 ∧ 4095 < 2 ^ 12) ∧ (12 ≤ 16 ∧ 16 ≤ 16 ∧ 65535 < 2 ^ 16) ∧
      ((15 : Fin 16) ≠ 0 ∧ attractLevel 12 15 3968 ≠ 0#8 ∧ attractLevel 12 0 3968 ≠ 0#8) := by decide

/-- `ISRC` enabled in each mode as the button step leaves it. -/
theorem witness_FrameIsWrittenInAttractOnly :
    ready.gie = true ∧ ready.pend.c = true ∧ modeAfterButton ready = .attract ∧
      modeAfterButton (withButton true 0#8 0#2 ready) = .direct ∧ modeAfterButton (withButton true 0#8 1#2 ready) = .vu :=
  ⟨rfl, rfl, by decide, by decide, by decide⟩

/-- Distances on both sides of the brightness range, up to half the track. -/
theorem witness_PulseIsSymmetricAndFalling :
    (12 ≤ 12 ∧ 12 ≤ 16) ∧ (254 < 255 ∧ 255 ≤ 2 ^ (12 - 1) ∧ 254 < 255) ∧ (255 < 2048 ∧ 2048 ≤ 2 ^ (12 - 1) ∧ 255 ≤ 255) := by
  decide

theorem witness_HeldButtonRepeatsEverySeventeenTicks :
    (withButton false 0#8 2#2 ready).gie = true ∧ (withButton false 0#8 2#2 ready).btnN = false ∧
      (withButton false 0#8 2#2 ready).debounce = 0#8 ∧ (withButton false 0#8 2#2 ready).mode ≠ 3#2 :=
  ⟨rfl, rfl, rfl, by decide⟩

/-- `ISRR` enabled where the ports are driven (gated in Attract, ungated) and where they are not. -/
theorem witness_IsrrStep :
    ready.gie = true ∧ ready.pend.r = true ∧ effMode ready.mode = .attract ∧
      ({ ready with cfg := { defaultConfig with refreshGated := false } } : State).cfg.refreshGated = false ∧
      (({ ready with mode := 1#2 } : State).cfg.refreshGated = true ∧
        effMode ({ ready with mode := 1#2 } : State).mode ≠ .attract) :=
  ⟨rfl, rfl, by decide, rfl, rfl, by decide⟩

theorem witness_RefreshGatingDecidesWhoDrivesThePorts :
    (({ ready with mode := 1#2 } : State).cfg.refreshGated = true ∧ ({ ready with mode := 1#2 } : State).mode = 1#2 ∧
        ready.gie = true ∧ ready.pend.r = true) ∧
      configOk { defaultConfig with refreshGated := false } = true := ⟨⟨rfl, rfl, rfl, rfl⟩, by decide⟩

theorem witness_RefreshSweepHasPeriodSixteen : ready.gie = true ∧ drivesPorts ready = true := ⟨rfl, by decide⟩

/-- At the first and the last threshold of the sweep. -/
theorem witness_DutyCycleOfAFullSweep :
    configOk ready.cfg = true ∧ ready.gie = true ∧ drivesPorts ready = true ∧ ready.slice.toNat % 16 = 0 ∧
      ({ ready with slice := 240#8 } : State).slice.toNat % 16 = 0 := ⟨by decide, rfl, by decide, by decide, by decide⟩

/-- `ISRS` enabled in each mode, and the state of the example. -/
theorem witness_IsrsStep :
    ready.gie = true ∧ ready.pend.s = true ∧ effMode ready.mode = .attract ∧
      effMode (withSample 1#2 0#8 0#8 ready).mode = .vu ∧
      ((withSample 0#2 0x00#8 0x50#8 ready).cfg = defaultConfig ∧ effMode (withSample 0#2 0x00#8 0x50#8 ready).mode = .direct ∧
        (withSample 0#2 0x00#8 0x50#8 ready).mode = 0#2 ∧ (withSample 0#2 0x00#8 0x50#8 ready).adcH = 0x00#8 ∧
        (withSample 0#2 0x00#8 0x50#8 ready).adcL = 0x50#8 ∧
        ∀ p, (withSample 0#2 0x00#8 0x50#8 ready).ports.get p &&& ~~~portMask boardPinTable p = 0#8) :=
  ⟨rfl, rfl, by decide, by decide, rfl, by decide, rfl, rfl, rfl, fun p => by cases p <;> decide⟩

theorem witness_SpuriousSampleIsASilentNoOp :
    ready.gie = true ∧ ready.pend.s = true ∧ ready.mode = 2#2 ∧ (withSample 3#2 0#8 0#8 ready).mode = 3#2 :=
  ⟨rfl, rfl, rfl, rfl⟩

theorem witness_SamplePathBypassesTheBuffer : ∃ t, exec .isrs (withSample 0#2 0x00#8 0x50#8 ready) = .next t := ⟨_, rfl⟩

/-- The largest and the smallest shifts the constraints allow, and samples of a count. -/
theorem witness_QuantizeIsTheShiftedField :
    configOk { defaultConfig with shiftVu := 0, shiftDirect := 12 } = true ∧ quantize 0 15#16 = 15#4 ∧
      quantize 12 0xF000#16 = 15#4 ∧ (15#4 : BitVec 4) ≠ 0#4 := by decide

theorem witness_NewestSampleIsShown :
    (withSample 1#2 0#8 0#8 ready).gie = true ∧ effMode (withSample 1#2 0#8 0#8 ready).mode ≠ .attract ∧
      configOk (withSample 1#2 0#8 0#8 ready).cfg = true := ⟨rfl, by decide, by decide⟩

theorem witness_LocationsReadBackWhatWasWritten :
    State.reset.adcLatch = none ∧ (∀ i, Loc.trig ≠ .gamma i) ∧ Loc.btn ≠ Loc.trig := ⟨rfl, fun _ => by simp, by decide⟩

theorem witness_SampleReadIsNotTorn : Loc.buf 15 ≠ .adcL ∧ Loc.buf 15 ≠ .adcH := by decide

/-- A storing and a location it does not store to, for `PINWR` and for `ISRR`. -/
theorem witness_LocationsOutsideTheStoresKeepTheirValue :
    ready.adcLatch = none ∧ (∃ t, exec (.pinwr .d 1#8) ready = .next t) ∧ storesTo (.pinwr .d 1#8) ready (.port .c) = false ∧
      (∃ t, exec .isrr ready = .next t) ∧ storesTo .isrr ready .trig = false := ⟨rfl, ⟨_, rfl⟩, rfl, ⟨_, rfl⟩, rfl⟩

/-- A step that changes a register: `TICKR` sets its flag. -/
theorem witness_RegistersChangeOnlyByTheirWriters :
    ∃ t, exec .tickr State.reset = .next t ∧ t.pend.r ≠ State.reset.pend.r := ⟨_, rfl, by decide⟩

theorem witness_StepPerformsTheDecodedOperation :
    configOk ({ ready with schedule := [0xA00000#24] } : State).cfg = true ∧
      ({ ready with schedule := [0xA00000#24] } : State).schedule = 0xA00000#24 :: [] ∧ decode 0xA00000#24 = .ok .isrr ∧
      Instr.start.served = none := ⟨by decide, rfl, by decide, rfl⟩

/-- Each of the three reasons occurs. -/
theorem witness_StepIsRefusedExactlyForThreeReasons :
    step (State.powerUp { defaultConfig with phaseBits := 17 }) = .refused .badConfig ∧
      step { ready with schedule := [0x000001#24] } = .refused (.illegalWord 0x000001#24) ∧
      step { State.reset with schedule := [0x900000#24] } = .refused (.notEnabled .control) := ⟨rfl, rfl, rfl⟩

/-- A state that owes a handler step, and one that owes none. -/
theorem witness_DispatcherTakesAnEnabledHandler :
    configOk ready.cfg = true ∧ ready.schedule = [] ∧ (ready.gie = true ∧ ∃ src, ready.pend.get src = true) ∧
      State.reset.schedule = [] ∧ ¬ (State.reset.gie = true ∧ ∃ src, State.reset.pend.get src = true) :=
  ⟨by decide, rfl, ⟨rfl, .control, rfl⟩, rfl, fun h => by simpa [State.reset, State.powerUp] using h.1⟩

theorem witness_StepKeepsRegistersOk :
    RegistersOk State.reset ∧ ∃ t, step (State.reset.withFetchWord 24 0x900000) = .next t :=
  ⟨⟨by decide, by decide, by decide, by decide, by decide, rfl⟩, _, rfl⟩

theorem witness_PowerUpValues :
    State.reset = State.powerUp defaultConfig ∧ IsDisplayBit defaultConfig.pinTable .d 2 := ⟨rfl, 0, by decide⟩

theorem witness_ConfigurationIsConstantInARun : ∃ t, step (State.reset.withFetchWord 24 0x100000) = .next t := ⟨_, rfl⟩

theorem witness_RunningAScheduleIsPerformingItsOperations : configOk State.reset.cfg = true := by decide

/-- A schedule with an illegal word, one without, and a state that meets an illegal word. -/
theorem witness_IllegalWordsAreRefused :
    ((0x840000#24 : Word) ∈ [0x200000#24, 0x840000#24] ∧ decode 0x840000#24 = .error .selNotZero) ∧
      (∀ w ∈ [0x200000#24, 0x500000#24], ∃ i, decode w = .ok i) ∧
      (configOk ready.cfg = true ∧ ({ ready with schedule := [0x840000#24] } : State).schedule = 0x840000#24 :: []) :=
  ⟨by decide, by simp only [List.mem_cons, List.not_mem_nil, or_false]; rintro w (rfl | rfl)
                 · exact ⟨.start, by decide⟩
                 · exact ⟨.tickr, by decide⟩, by decide, rfl⟩

end Sys2Proof.Tests
end

section
/-! The scope rules of 00_scope.md: the configuration is constant in a run (R9). -/

namespace Sys2Proof.Machine

variable {s t : State}

/-- No dispatcher operation writes the parameters: neither the dispatch nor any of the three handlers does. -/
theorem exec_handler_cfg {src : Source} (h : exec src.handler s = .next t) : t.cfg = s.cfg := by
  rw [exec_handler, dispatch_eq_next] at h
  obtain ⟨-, rfl⟩ := h
  rw [handlerOf_cfg, clearPending_cfg]

/-- No operation writes the parameters (00_scope.md R9). -/
theorem exec_cfg {i : Instr} (h : exec i s = .next t) : t.cfg = s.cfg := by
  cases i with
  | isrc => exact exec_handler_cfg (src := .control) h
  | isrr => exact exec_handler_cfg (src := .refresh) h
  | isrs => exact exec_handler_cfg (src := .sample) h
  | nop | btn level => cases h; rfl
  | rst => cases h; exact resetBlock_cfg s
  | start | stop => cases h; exact setGie_cfg s _
  | tickc | tickr | adcdone v => cases h; exact raiseEvent_cfg _ _
  | pinwr p v => cases h; exact writePort_cfg s p _

/-- No step writes the parameters: it performs an operation or idles (00_scope.md R9). -/
theorem step_cfg (h : step s = .next t) : t.cfg = s.cfg := by
  obtain ⟨_, _, _, hexec⟩ | rfl := step_next_cases h
  · exact (exec_cfg hexec :)
  · rfl

/-- The pin table is read from the parameters alone. -/
theorem romPin_congr (h : t.cfg = s.cfg) (i : Fin 16) : romPin i t = romPin i s := by
  simp only [romPin, h]

/-- Settles O54: `step_cfg`, the pin table being one of the parameters and `GAMMA` a constant of the block. -/
theorem configurationIsConstantInARun : Obligations.ConfigurationIsConstantInARun := by
  intro s t h
  have hcfg : t.cfg = s.cfg := step_cfg h
  exact ⟨hcfg, romPin_congr hcfg, fun i => peek_gamma s i t⟩

end Sys2Proof.Machine
end

section
/-! The thermometer code of 30_encoding.md (R69). -/

namespace Sys2Proof.Machine

/-- The shift loses no bit, since `n < 16`, and the subtraction does not wrap, since `1 ≤ 2 ^ n` (30_encoding.md R69). -/
@[simp] theorem thermo_toNat (n : BitVec 4) : (thermo n).toNat = 2 ^ n.toNat - 1 := by
  have hshift : (1#16 <<< n.toNat).toNat = 2 ^ n.toNat := BitVec.toNat_twoPow_of_lt n.isLt
  have hone : 1#16 ≤ 1#16 <<< n.toNat := by
    rw [BitVec.le_def, hshift]
    exact Nat.one_le_two_pow
  rw [thermo, BitVec.toNat_sub_of_le hone, hshift, BitVec.toNat_ofNat]

/-- Bit `j` of `thermo n` is set exactly when `j < n`. -/
@[simp] theorem thermo_getLsbD (n : BitVec 4) (j : Nat) : (thermo n).getLsbD j = decide (j < n.toNat) := by
  rw [← BitVec.testBit_toNat, thermo_toNat, Nat.testBit_two_pow_sub_one]

/-- Settles O42: the bits below `n` are those of `2 ^ n - 1`, and `n ≤ 15` leaves bit 15 clear (the spec's D10). -/
theorem thermometerCode : Obligations.ThermometerCode := by
  intro n
  refine ⟨thermo_toNat n, fun j => ?_, ?_⟩
  · rw [thermo_getLsbD, decide_eq_true_iff]
  · rw [thermo_getLsbD, decide_eq_false_iff_not]
    exact Nat.not_lt.mpr (Nat.le_of_lt_succ n.isLt)

end Sys2Proof.Machine
end

section
/-! The bit-pattern encoder of 40_encoder.md: what it writes (R80) and its inverse (R83). -/

namespace Sys2Proof.Machine

/-- Of the old port values the encoder sees the foreign bits only (40_encoder.md R80). -/
theorem encodePorts_congr {t : Vector Pin 16} {ps qs : Ports} (P : Pattern)
    (h : ∀ p, ps.get p &&& ~~~portMask t p = qs.get p &&& ~~~portMask t p) :
    encodePorts t P ps = encodePorts t P qs := by
  refine Ports.ext_get fun p => ?_
  rw [encodePorts_get, encodePorts_get, maskedUpdate, maskedUpdate, h p]

/-- Settles O20: bit `i` of the pattern is inverted on the way to the pin of LED `i` and inverted again on the way back. -/
theorem encodeThenDecodePortsIsThePattern : Obligations.EncodeThenDecodePortsIsThePattern := by
  intro t P ps ht
  refine BitVec.eq_of_getLsbD_eq fun i hi => ?_
  have hread := decodePorts_getLsbD t (encodePorts t P ps) ⟨i, hi⟩
  rwa [encodePorts_display t ht P ps ⟨i, hi⟩, Bool.not_not] at hread

/-- The worked example of 40_encoder.md R80 on blank ports. -/
theorem encodePorts_board_firstLed_blank :
    encodePorts boardPinTable 0x0001#16 ⟨0#8, 0#8, 0#8, 0#8⟩ = ⟨0x03#8, 0x3C#8, 0xF8#8, 0x0F#8⟩ := by decide

/-- Settles O18: the display bits by `encodePorts_display`, the foreign bits by `encodePorts_foreign`, and the example by
`encodePorts_congr`, since ports whose foreign bits are 0 are to the encoder as good as blank ones. -/
theorem encoderDrivesInvertedBits : Obligations.EncoderDrivesInvertedBits := by
  constructor
  · intro s P ht
    exact ⟨encodePorts s.cfg.pinTable P s.ports, rfl, encodePorts_display s.cfg.pinTable ht P s.ports,
      encodePorts_foreign s.cfg.pinTable P s.ports⟩
  · intro ps hforeign
    have hblank : ∀ p, ps.get p &&& ~~~portMask boardPinTable p =
        (⟨0#8, 0#8, 0#8, 0#8⟩ : Ports).get p &&& ~~~portMask boardPinTable p := by
      intro p
      rw [hforeign p]
      cases p <;> exact BitVec.zero_and.symm
    rw [encodePorts_congr _ hblank, encodePorts_board_firstLed_blank]

end Sys2Proof.Machine
end

section
/-! The threshold pattern builder of 41_threshold_builder.md: its comparison (R90) and its monotonicity (R93). -/

namespace Sys2Proof.Machine

/-- The worked example of 41_threshold_builder.md R90: entry 8 of `GAMMA` is the threshold itself and stays dark. -/
theorem buildPattern_gamma_sixtyFour : buildPattern false gamma 64#8 = 0xFE00#16 := by decide

/-- Settles O22: bit `i` is the comparator's answer on entry `i`, and the comparator compares the unsigned values. -/
theorem buildPatternComparesEveryEntry : Obligations.BuildPatternComparesEveryEntry := by
  refine ⟨fun buf t i => ⟨?strict, ?inclusive⟩, buildPattern_gamma_sixtyFour⟩
  case strict => rw [buildPattern_getLsbD, exceeds_iff, if_neg Bool.false_ne_true]
  case inclusive => rw [buildPattern_getLsbD, exceeds_iff, if_pos rfl]

/-- What exceeds a threshold exceeds every lower one, under either operator (41_threshold_builder.md R93). -/
theorem exceeds_of_threshold_le {inclusive : Bool} {v t1 t2 : Byte} (hle : t1.toNat ≤ t2.toNat)
    (h : exceeds inclusive v t2 = true) : exceeds inclusive v t1 = true := by
  rw [exceeds_iff] at h ⊢
  cases inclusive with
  | false => exact Nat.lt_of_le_of_lt hle h
  | true => exact Nat.le_trans hle h

/-- Settles O23: bit `i` is the comparator's answer on entry `i`, and the comparator is monotone in the threshold. -/
theorem buildPatternIsMonotone : Obligations.BuildPatternIsMonotone := by
  intro inclusive buf t1 t2 i hle hbit
  rw [buildPattern_getLsbD] at hbit ⊢
  exact exceeds_of_threshold_le hle hbit

end Sys2Proof.Machine
end

section
/-! The mode state machine of 42_mode_fsm.md: the reading of the mode register (R100), the cycle (R101), the transition
(R103). -/

namespace Sys2Proof.Machine

variable {s t : State}

/-! ### The reading of the mode register; its value 3 is out of range (42_mode_fsm.md R100) -/

@[simp] theorem effMode_zero : effMode 0#2 = .direct := rfl

@[simp] theorem effMode_one : effMode 1#2 = .vu := rfl

@[simp] theorem effMode_two : effMode 2#2 = .attract := rfl

@[simp] theorem effMode_three : effMode 3#2 = .attract := rfl

/-- The reading loses no legal value. -/
theorem modeCode_effMode {m : BitVec 2} (h : m ≠ 3#2) : modeCode (effMode m) = m := by
  revert m; decide

/-! ### The cycle and the transition -/

/-- The cycle in numbers (42_mode_fsm.md R101). -/
theorem modeCode_nextMode_toNat (m : Mode) : (modeCode (nextMode m)).toNat = ((modeCode m).toNat + 1) % 3 := by
  cases m <;> rfl

/-- Settles O24: the cycle in numbers on what the register reads as, which for a legal value is the value itself; a mode
is never stored as 3. -/
theorem nextModeIsTheCycle : Obligations.NextModeIsTheCycle := by
  refine ⟨⟨rfl, rfl, rfl⟩, fun m hm => ?legal, ?outOfRange, fun m => modeCode_ne_three _⟩
  case legal => rw [modeCode_nextMode_toNat, modeCode_effMode hm]
  case outOfRange => rw [effMode_three]; rfl

/-- The transition field by field (42_mode_fsm.md R103). -/
theorem setNextMode_eq (s : State) : setNextMode s =
    { s with mode := modeCode (nextMode (effMode s.mode)), adcTrig := trigCode (trigOf (nextMode (effMode s.mode))) } := rfl

/-- Settles O25: `setNextMode_eq`; in the worked example the register reads as VU, whose successor is Attract with the
trigger off. -/
theorem transitionWritesModeAndTrigger : Obligations.TransitionWritesModeAndTrigger := by
  refine ⟨setNextMode_eq, fun s hmode _ => ?_⟩
  rw [setNextMode_eq, hmode, effMode_one]
  rfl

/-! ### What the handlers leave of the mode -/

/-- Without a qualified press the control handler is no mode transition (42_mode_fsm.md R100, 43_control_handler.md
R111). -/
theorem controlHandler_mode_adcTrig_of_not_press (h : qualifiedPress s = false) :
    (controlHandler s).mode = s.mode ∧ (controlHandler s).adcTrig = s.adcTrig := by
  simp [h]

/-- A dispatcher operation keeps `mode` and `adc_trig`, whatever the mode, unless it is the control handler with a
qualified press. -/
theorem exec_handler_mode_adcTrig {src : Source} (hpress : src = .control → qualifiedPress s = false)
    (h : exec src.handler s = .next t) : t.mode = s.mode ∧ t.adcTrig = s.adcTrig := by
  rw [exec_handler, dispatch_eq_next] at h
  obtain ⟨-, rfl⟩ := h
  cases src with
  | control => exact controlHandler_mode_adcTrig_of_not_press (s := clearPending .control s) (hpress rfl)
  | refresh => exact ⟨refreshHandler_mode _, refreshHandler_adcTrig _⟩
  | sample => exact ⟨sampleHandler_mode _, sampleHandler_adcTrig _⟩

/-- A released button or a nonzero debounce counter is no qualified press (43_control_handler.md R111). -/
theorem qualifiedPress_eq_false (h : s.btnN = true ∨ s.debounce ≠ 0#8) : qualifiedPress s = false := by
  rw [← Bool.not_eq_true, qualifiedPress_iff, not_and_or, Bool.not_eq_false]
  exact h

/-- Settles O26: no handler without a qualified press writes `mode` or `adc_trig`, so an out-of-range mode stays
(`exec_handler_mode_adcTrig`). -/
theorem outOfRangeModeReadsAsAttract : Obligations.OutOfRangeModeReadsAsAttract := by
  refine ⟨⟨effMode_zero, effMode_one, effMode_two, effMode_three⟩, ?refreshOrSample, ?control⟩
  case refreshOrSample =>
    rintro s t hmode (h | h)
    · exact hmode ▸ exec_handler_mode_adcTrig (src := .refresh) nofun h
    · exact hmode ▸ exec_handler_mode_adcTrig (src := .sample) nofun h
  case control =>
    intro s t hmode hnoPress h
    exact hmode ▸ exec_handler_mode_adcTrig (src := .control) (fun _ => qualifiedPress_eq_false hnoPress) h

end Sys2Proof.Machine
end

section
/-! The control handler of 43_control_handler.md: its whole effect (R110), the button and the debounce counter (R111), the
frame write (R114). -/

namespace Sys2Proof.Machine

variable {s t : State}

/-! ### `ISRC` as the control handler -/

/-- An enabled `ISRC` completes, with the control handler run on the state whose flag is cleared (R110). -/
theorem exec_isrc (hgie : s.gie = true) (hpend : s.pend.c = true) :
    exec .isrc s = .next (controlHandler (clearPending .control s)) :=
  dispatch_eq_next.mpr ⟨(enabled_iff s .control).mpr ⟨hgie, hpend⟩, rfl⟩

/-- The frame of the control handler: it writes these five registers and no other field (R110). -/
theorem controlHandler_frame (s : State) : controlHandler s =
    { s with mode := (controlHandler s).mode, adcTrig := (controlHandler s).adcTrig,
             debounce := (controlHandler s).debounce, phase := (controlHandler s).phase,
             buf := (controlHandler s).buf } := by
  apply State.ext <;> simp

/-! ### The button step (43_control_handler.md R111) -/

/-- A qualified press is a mode transition and arms the counter. -/
theorem controlHandler_of_press (h : qualifiedPress s = true) :
    (controlHandler s).mode = (setNextMode s).mode ∧ (controlHandler s).adcTrig = (setNextMode s).adcTrig ∧
      (controlHandler s).debounce = 16#8 := by
  simp [h, debounceWindow]

/-- Without a qualified press there is no transition, and the counter counts down and stays at 0. -/
theorem controlHandler_of_not_press (h : qualifiedPress s = false) :
    (controlHandler s).mode = s.mode ∧ (controlHandler s).adcTrig = s.adcTrig ∧
      (controlHandler s).debounce.toNat = s.debounce.toNat - 1 := by
  obtain ⟨hmode, htrig⟩ := controlHandler_mode_adcTrig_of_not_press h
  refine ⟨hmode, htrig, ?_⟩
  have hstep : (controlHandler s).debounce = if s.debounce = 0#8 then s.debounce else s.debounce - 1#8 := by simp [h]
  rw [hstep]
  split
  case isTrue h0 => rw [h0]; rfl
  case isFalse h0 => bv_omega

/-- The handler never takes the counter above `DEBOUNCE_WINDOW`. -/
theorem controlHandler_debounce_le (h : s.debounce.toNat ≤ 16) : (controlHandler s).debounce.toNat ≤ 16 := by
  cases hq : qualifiedPress s with
  | true =>
    obtain ⟨-, -, hdebounce⟩ := controlHandler_of_press hq
    exact hdebounce ▸ Nat.le_refl 16
  | false =>
    obtain ⟨-, -, hdebounce⟩ := controlHandler_of_not_press hq
    omega

/-! ### The animation step (43_control_handler.md R112, R114) -/

/-- The widths of the phase register that 00_scope.md R6 allows. -/
theorem phaseBits_of_configOk {c : Config} (h : configOk c = true) : 12 ≤ c.phaseBits ∧ c.phaseBits ≤ 16 := by
  simp only [configOk, Bool.and_eq_true, decide_eq_true_eq] at h
  omega

/-- The phase register holds the advanced phase: no width that 00_scope.md R6 allows exceeds its 16 bits. -/
theorem controlHandler_phase_toNat (hbits : s.cfg.phaseBits ≤ 16) :
    (controlHandler s).phase.toNat = (s.phase.toNat + 323) % 2 ^ s.cfg.phaseBits := by
  have hlt : (s.phase.toNat + 323) % 2 ^ s.cfg.phaseBits < 2 ^ 16 :=
    (Nat.mod_lt _ (Nat.two_pow_pos _)).trans_le (Nat.pow_le_pow_right Nat.two_pos hbits)
  rw [controlHandler_phase, BitVec.toNat_ofNat, phaseInc, Nat.mod_eq_of_lt hlt]

/-- Ending in Attract, every entry is that of the frame of the phase just written. -/
theorem controlHandler_buf_of_attract (h : effMode (controlHandler s).mode = .attract) (i : Fin 16) :
    (controlHandler s).buf[i] = attractLevel s.cfg.phaseBits i (controlHandler s).phase.toNat := by
  rw [effMode_controlHandler] at h
  rw [controlHandler_buf, if_pos h]
  exact Vector.getElem_ofFn i.isLt

/-- Ending in another mode, the buffer is kept. -/
theorem controlHandler_buf_of_not_attract (h : effMode (controlHandler s).mode ≠ .attract) :
    (controlHandler s).buf = s.buf := by
  rw [effMode_controlHandler] at h
  rw [controlHandler_buf, if_neg h]

/-! ### `ISRC` -/

/-- The first control tick after reset and `START`, from the worked example of 43_control_handler.md R110. -/
theorem performAll_first_control_tick : ∃ t, performAll [.start, .tickc, .isrc] State.reset = .next t ∧
    t.phase = 323#16 ∧ t.debounce = 0#8 ∧ t.mode = 2#2 ∧
    t.buf = #v[0#8, 188#8, 66#8, 0#8, 0#8, 0#8, 0#8, 0#8, 0#8, 0#8, 0#8, 0#8, 0#8, 0#8, 0#8, 0#8] :=
  ⟨_, rfl, by decide, by decide, by decide, by decide⟩

/-- Settles O27: the control handler's frame and the two outcomes of each of its steps; the flag is the dispatch's. -/
theorem isrcStep : Obligations.IsrcStep := by
  refine ⟨fun s hcfg hgie hpend => ?_, performAll_first_control_tick, by decide⟩
  obtain ⟨-, hbits⟩ := phaseBits_of_configOk hcfg
  refine ⟨_, exec_isrc hgie hpend, controlHandler_frame (clearPending .control s), fun hpress => ?press,
    fun hno => ?noPress, controlHandler_phase_toNat (s := clearPending .control s) hbits,
    controlHandler_buf_of_attract (s := clearPending .control s),
    controlHandler_buf_of_not_attract (s := clearPending .control s)⟩
  case press => exact controlHandler_of_press (s := clearPending .control s) ((qualifiedPress_iff s).mpr hpress)
  case noPress =>
    refine controlHandler_of_not_press (s := clearPending .control s) ?_
    rwa [← Bool.not_eq_true, qualifiedPress_iff]

/-- Settles O31: the two cases of the frame write; Direct and VU are the modes other than Attract. -/
theorem frameIsWrittenInAttractOnly : Obligations.FrameIsWrittenInAttractOnly := by
  intro s hgie hpend
  refine ⟨_, exec_isrc hgie hpend, controlHandler_buf_of_attract (s := clearPending .control s), fun hmode => ?_⟩
  refine controlHandler_buf_of_not_attract (s := clearPending .control s) fun hattract => ?_
  rw [hattract] at hmode
  exact hmode.elim nofun nofun

/-! ### The debounce counter in a run from reset (43_control_handler.md R111) -/

/-- No operation takes the counter above `DEBOUNCE_WINDOW`: only the control handler and `RST` write it. -/
theorem exec_debounce_le {i : Instr} (h : exec i s = .next t) (hs : s.debounce.toNat ≤ 16) :
    t.debounce.toNat ≤ 16 := by
  cases i with
  | isrc =>
    obtain ⟨-, rfl⟩ := dispatch_eq_next.mp h
    exact controlHandler_debounce_le (s := clearPending .control s) hs
  | isrr =>
    obtain ⟨-, rfl⟩ := dispatch_eq_next.mp h
    rwa [refreshHandler_debounce, clearPending_debounce]
  | isrs =>
    obtain ⟨-, rfl⟩ := dispatch_eq_next.mp h
    rwa [sampleHandler_debounce, clearPending_debounce]
  | rst =>
    cases h
    exact resetBlock_debounce s ▸ Nat.zero_le 16
  | nop | start | stop | tickc | tickr | adcdone v | btn level | pinwr p v => cases h; exact hs

/-- What every operation keeps holds after a run of operations. -/
theorem performAll_keeps {P : State → Prop} (hexec : ∀ {i : Instr} {s t : State}, exec i s = .next t → P s → P t) :
    ∀ {ops : List Instr} {s t : State}, performAll ops s = .next t → P s → P t
  | [], s, t, h, hs => by cases h; exact hs
  | i :: ops, s, t, h, hs => by
    cases hi : exec i s with
    | next u =>
      simp only [performAll, hi] at h
      exact performAll_keeps hexec h (hexec hi hs)
    | fault r => cases r
    | refused r =>
      simp only [performAll, hi] at h
      cases h

/-- Settles O28: of the four rows of R111 only the first is a qualified press; the bound is `exec_debounce_le` along the
run, from 0 at reset. -/
theorem buttonAndDebounceCases : Obligations.ButtonAndDebounceCases := by
  constructor
  case right => exact fun ops t h => performAll_keeps exec_debounce_le h (Nat.zero_le 16)
  case left =>
    intro s hgie hpend
    have hrow (h : s.btnN = true ∨ s.debounce ≠ 0#8) :=
      controlHandler_of_not_press (s := clearPending .control s) (qualifiedPress_eq_false h)
    have hnonzero : 0 < s.debounce.toNat → s.debounce ≠ 0#8 := fun h h0 => by simp [h0] at h
    refine ⟨_, exec_isrc hgie hpend, fun hbtn h0 => ?transition, fun _ hk => hrow (.inr (hnonzero hk)),
      fun hbtn h0 => ?idle, fun hbtn _ => hrow (.inl hbtn)⟩
    case transition =>
      obtain ⟨hmode, htrig, hdebounce⟩ :=
        controlHandler_of_press (s := clearPending .control s) ((qualifiedPress_iff s).mpr ⟨hbtn, h0⟩)
      rw [hmode, htrig, hdebounce, setNextMode_mode, setNextMode_adcTrig, effMode_modeCode]
      exact ⟨rfl, rfl, rfl⟩
    case idle =>
      obtain ⟨hmode, htrig, hdebounce⟩ := hrow (.inl hbtn)
      exact ⟨hmode, htrig, by rw [hdebounce, clearPending_debounce, h0]; rfl⟩

end Sys2Proof.Machine
end

section
/-! The attract brightness of 43_control_handler.md (R113): 255 minus the circular distance. -/

namespace Sys2Proof.Machine

/-- The circular distance in natural numbers: on a track of at least 4096 no LED position wraps, and adding the length
once keeps the difference from going below 0. -/
theorem attractDistance_eq {bits : Nat} (hbits : 12 ≤ bits) (i : Fin 16) {ph : Nat} (hph : ph < 2 ^ bits) :
    attractDistance bits i ph =
      min ((256 * i.val + 2 ^ bits - ph) % 2 ^ bits) (2 ^ bits - (256 * i.val + 2 ^ bits - ph) % 2 ^ bits) := by
  have hlen : 2 ^ 12 ≤ 2 ^ bits := Nat.pow_le_pow_right Nat.two_pos hbits
  have hpos : 256 * i.val % 2 ^ bits = 256 * i.val := Nat.mod_eq_of_lt (by omega)
  have hforward : ((256 * i.val : Nat) - (ph : Int)) % (2 ^ bits : Nat) =
      ((256 * i.val + 2 ^ bits - ph) % 2 ^ bits : Nat) := by
    have hturn : ((256 * i.val : Nat) - (ph : Int)) + (2 ^ bits : Nat) = (256 * i.val + 2 ^ bits - ph : Nat) := by omega
    rw [← Int.add_emod_right, hturn, Int.natCast_emod]
  simp only [attractDistance, ledSpacing, hpos, hforward, Int.toNat_natCast]

/-- The level fits its byte (43_control_handler.md R113). -/
theorem attractLevel_toNat (bits : Nat) (i : Fin 16) (ph : Nat) :
    (attractLevel bits i ph).toNat = 255 - attractDistance bits i ph := by
  rw [attractLevel, BitVec.toNat_ofNat, attractRange]
  omega

theorem attractLevel_ne_zero_iff {bits : Nat} {i : Fin 16} {ph : Nat} :
    attractLevel bits i ph ≠ 0#8 ↔ attractDistance bits i ph < 255 := by
  rw [ne_eq, ← BitVec.toNat_inj, attractLevel_toNat, BitVec.toNat_ofNat]
  omega

/-- On the default track two LEDs within range of one phase stand on both sides of it, one spacing apart. -/
theorem attractDistance_add_of_lit {i j : Fin 16} {ph : Nat} (hph : ph < 4096) (hij : i ≠ j)
    (hi : attractDistance 12 i ph < 255) (hj : attractDistance 12 j ph < 255) :
    (j.val = (i.val + 1) % 16 ∨ i.val = (j.val + 1) % 16) ∧
      attractDistance 12 i ph + attractDistance 12 j ph = 256 := by
  rw [attractDistance_eq (Nat.le_refl 12) _ hph] at hi hj ⊢
  rw [attractDistance_eq (Nat.le_refl 12) _ hph]
  have hne := Fin.val_ne_of_ne hij
  omega

/-- At the position of LED `k` of the default track LED `k` is at distance 0 and every other one out of range. -/
theorem attractDistance_at_led (i k : Fin 16) :
    attractDistance 12 i (256 * k.val) = 0 ∧ i = k ∨ 255 ≤ attractDistance 12 i (256 * k.val) ∧ i ≠ k := by
  rw [attractDistance_eq (Nat.le_refl 12) i (by omega), Fin.ext_iff, ne_eq, Fin.ext_iff]
  omega

/-- The worked examples of 43_control_handler.md R113. -/
theorem attractLevel_examples :
    attractLevel 12 0 0 = 255#8 ∧ attractLevel 12 1 0 = 0#8 ∧ attractLevel 12 1 323 = 188#8 ∧
      attractLevel 12 2 323 = 66#8 ∧ attractLevel 12 15 3968 = 127#8 ∧ attractLevel 12 0 3968 = 127#8 := by decide

/-- Settles O30: the level is 255 minus the circular distance, and the corner cases are facts about that distance (the
spec's D7). -/
theorem attractLevelIsTheCircularPulse : Obligations.AttractLevelIsTheCircularPulse := by
  refine ⟨fun bits i ph hbits _ hph => ?level, attractLevel_examples, fun i j ph hph hij hi hj => ?neighbours,
    fun i k => ?atLed⟩
  case level => rw [attractLevel_toNat, attractDistance_eq hbits i hph]
  case neighbours =>
    rw [attractLevel_ne_zero_iff] at hi hj
    obtain ⟨hnext, hsum⟩ := attractDistance_add_of_lit hph hij hi hj
    refine ⟨hnext, ?_⟩
    rw [attractLevel_toNat, attractLevel_toNat]
    omega
  case atLed =>
    apply BitVec.eq_of_toNat_eq
    obtain ⟨hd, hik⟩ | ⟨hd, hik⟩ := attractDistance_at_led i k
    · rw [attractLevel_toNat, hd, if_pos hik]; rfl
    · rw [attractLevel_toNat, Nat.sub_eq_zero_of_le hd, if_neg hik]; rfl

end Sys2Proof.Machine
end

section
/-! The refresh handler of 44_refresh_handler.md: its whole effect (R125). -/

namespace Sys2Proof.Machine

variable {s : State}

/-- An enabled `ISRR` completes, with the refresh handler run on the state whose flag is cleared (R125). -/
theorem exec_isrr (hgie : s.gie = true) (hpend : s.pend.r = true) :
    exec .isrr s = .next (refreshHandler (clearPending .refresh s)) :=
  dispatch_eq_next.mpr ⟨(enabled_iff s .refresh).mpr ⟨hgie, hpend⟩, rfl⟩

/-- The frame of the refresh handler: it writes the threshold and the ports and no other field (R125). -/
theorem refreshHandler_frame (s : State) :
    refreshHandler s = { s with slice := (refreshHandler s).slice, ports := (refreshHandler s).ports } := by
  apply State.ext <;> simp

/-- The threshold advances by `THRESH_STEP` and wraps, in every mode. -/
theorem refreshHandler_slice_toNat (s : State) : (refreshHandler s).slice.toNat = (s.slice.toNat + 16) % 256 := by
  rw [refreshHandler_slice, threshStep, BitVec.toNat_add]
  rfl

/-- Driving the ports, the handler shows the buffer at the threshold it has just advanced. -/
theorem refreshHandler_ports_of_drives (h : drivesPorts s = true) : (refreshHandler s).ports =
    encodePorts s.cfg.pinTable (buildPattern s.cfg.cmpInclusive s.buf (refreshHandler s).slice) s.ports := by
  rw [refreshHandler_ports, if_pos h, refreshHandler_slice]

/-- Not driving the ports, the handler keeps them. -/
theorem refreshHandler_ports_of_not_drives (h : drivesPorts s ≠ true) : (refreshHandler s).ports = s.ports := by
  rw [refreshHandler_ports, if_neg h]

/-- Gated and outside Attract, the handler does not drive the ports (R126). -/
theorem drivesPorts_ne_true (hgated : s.cfg.refreshGated = true) (hmode : effMode s.mode ≠ .attract) :
    drivesPorts s ≠ true := by
  rw [ne_eq, drivesPorts_iff, hgated]
  exact not_or.mpr ⟨nofun, hmode⟩

/-- The ports of the worked example of R125, read back as a pattern. -/
theorem decodePorts_board_first_refresh :
    decodePorts boardPinTable ⟨0x00#8, 0x3C#8, 0x04#8, 0x00#8⟩ = 0xFFE0#16 := by decide

/-- The first refresh tick after reset and `START`, the worked example of 44_refresh_handler.md R125. -/
theorem performAll_first_refresh_tick : ∃ t, performAll [.start, .tickr, .isrr] State.reset = .next t ∧
    t.slice = 16#8 ∧ decodePorts boardPinTable t.ports = 0xFFE0#16 ∧ t.ports = ⟨0x00#8, 0x3C#8, 0x04#8, 0x00#8⟩ := by
  have hrun : ∃ t, performAll [.start, .tickr, .isrr] State.reset = .next t ∧
      t.slice = 16#8 ∧ t.ports = ⟨0x00#8, 0x3C#8, 0x04#8, 0x00#8⟩ := ⟨_, rfl, by decide, by decide⟩
  obtain ⟨t, hnext, hslice, hports⟩ := hrun
  exact ⟨t, hnext, hslice, hports ▸ decodePorts_board_first_refresh, hports⟩

/-- Settles O34: the refresh handler's frame, its threshold and the two cases of its gate; the flag is the dispatch's. -/
theorem isrrStep : Obligations.IsrrStep := by
  refine ⟨fun s hgie hpend => ?_, performAll_first_refresh_tick, by decide⟩
  refine ⟨_, exec_isrr hgie hpend, refreshHandler_frame (clearPending .refresh s),
    refreshHandler_slice_toNat (clearPending .refresh s), fun hdrives => ?driven, fun ⟨hgated, hmode⟩ => ?kept⟩
  case driven => exact refreshHandler_ports_of_drives (s := clearPending .refresh s) ((drivesPorts_iff s).mpr hdrives)
  case kept => exact refreshHandler_ports_of_not_drives (s := clearPending .refresh s) (drivesPorts_ne_true hgated hmode)

end Sys2Proof.Machine
end

section
/-! The quantiser of 45_sample_handler.md (R131): a 4-bit field of the sample. -/

namespace Sys2Proof.Machine

/-- The bits above the field are discarded, not saturated (45_sample_handler.md R131). -/
@[simp] theorem quantize_toNat (shift : Nat) (v : Sample) : (quantize shift v).toNat = v.toNat / 2 ^ shift % 16 := by
  rw [quantize, BitVec.toNat_setWidth, BitVec.toNat_ushiftRight, Nat.shiftRight_eq_div_pow]

theorem quantize_eq_ofNat (shift : Nat) (v : Sample) : quantize shift v = BitVec.ofNat 4 (v.toNat / 2 ^ shift) := by
  apply BitVec.eq_of_toNat_eq
  rw [quantize_toNat, BitVec.toNat_ofNat]

/-- No sample below `n * 2 ^ shift` gives bar count `n`. -/
theorem le_of_quantize_eq {shift : Nat} {v : Sample} {n : BitVec 4} (h : quantize shift v = n) :
    n.toNat * 2 ^ shift ≤ v.toNat := by
  rw [← h, quantize_toNat]
  exact (Nat.mul_le_mul_right _ (Nat.mod_le _ 16)).trans (Nat.div_mul_le_self _ _)

/-- The sample `n * 2 ^ shift` gives bar count `n`; at shifts up to 12 it fits 16 bits. -/
theorem quantize_ofNat_mul {shift : Nat} (hshift : shift ≤ 12) (n : BitVec 4) :
    quantize shift (BitVec.ofNat 16 (n.toNat * 2 ^ shift)) = n := by
  have hfits : n.toNat * 2 ^ shift < 2 ^ 16 :=
    calc n.toNat * 2 ^ shift
      _ < 2 ^ 4 * 2 ^ shift := Nat.mul_lt_mul_of_pos_right n.isLt (Nat.two_pow_pos shift)
      _ ≤ 2 ^ 4 * 2 ^ 12 := Nat.mul_le_mul_left _ (Nat.pow_le_pow_right Nat.two_pos hshift)
  apply BitVec.eq_of_toNat_eq
  rw [quantize_toNat, BitVec.toNat_ofNat, Nat.mod_eq_of_lt hfits, Nat.mul_div_cancel _ (Nat.two_pow_pos shift)]
  exact Nat.mod_eq_of_lt n.isLt

/-- The bar count wraps every `2 ^ (shift + 4)` counts (45_sample_handler.md R131). -/
theorem quantize_add_period {shift : Nat} (hshift : shift ≤ 12) (v : Sample) :
    quantize shift (v + BitVec.twoPow 16 (shift + 4)) = quantize shift v := by
  have hfield (w : Sample) : (quantize shift w).toNat = w.toNat % 2 ^ (shift + 4) / 2 ^ shift := by
    rw [quantize_toNat, Nat.pow_add, Nat.mod_mul_right_div_self]
  have hdvd : 2 ^ (shift + 4) ∣ 2 ^ 16 := Nat.pow_dvd_pow 2 (by omega)
  apply BitVec.eq_of_toNat_eq
  rw [hfield, hfield, BitVec.toNat_add, BitVec.toNat_twoPow, Nat.add_mod_mod, Nat.mod_mod_of_dvd _ hdvd, Nat.add_mod_right]

/-- The shifts that 00_scope.md R6 allows. -/
theorem shifts_of_configOk {c : Config} (h : configOk c = true) : c.shiftVu < c.shiftDirect ∧ c.shiftDirect ≤ 12 := by
  simp only [configOk, Bool.and_eq_true, decide_eq_true_eq] at h
  omega

/-- The corner cases of 45_sample_handler.md R131 at the default shifts. -/
theorem quantize_corner_cases :
    quantize 4 256#16 = 0#4 ∧ quantize 2 64#16 = 0#4 ∧ quantize 4 240#16 = 15#4 ∧ quantize 2 60#16 = 15#4 ∧
      quantize 4 0x03FF#16 = 15#4 ∧ quantize 2 0x03FF#16 = 15#4 ∧ quantize 4 0xFFFF#16 = 15#4 ∧
      quantize 2 0xFFFF#16 = 15#4 ∧ quantize 4 0#16 = 0#4 ∧ quantize 2 0#16 = 0#4 := by decide

/-- Settles O41: the field in numbers, its least sample for each bar count, and its period (the spec's D9). -/
theorem quantizeIsTheShiftedField : Obligations.QuantizeIsTheShiftedField := by
  refine ⟨quantize_toNat, fun c n hcfg => ?_,
    fun v => ⟨quantize_add_period (shift := 4) (by decide) v, quantize_add_period (shift := 2) (by decide) v⟩,
    quantize_corner_cases⟩
  obtain ⟨hvu, hdirect⟩ := shifts_of_configOk hcfg
  refine ⟨fun _ => le_of_quantize_eq, fun _ => le_of_quantize_eq, quantize_ofNat_mul (hvu.le.trans hdirect) n,
    quantize_ofNat_mul hdirect n, fun hn => ?earlierInVu⟩
  have hpos : 0 < n.toNat := Nat.pos_of_ne_zero fun h0 => hn (BitVec.eq_of_toNat_eq h0)
  exact Nat.mul_lt_mul_of_pos_left (Nat.pow_lt_pow_right (by decide) hvu) hpos

end Sys2Proof.Machine
end

section
/-! The sample handler of 45_sample_handler.md: its whole effect (R130), Attract (R133), the bypass of the buffer (R134). -/

namespace Sys2Proof.Machine

variable {s : State}

/-- An enabled `ISRS` completes, with the sample handler run on the state whose flag is cleared (R130). -/
theorem exec_isrs (hgie : s.gie = true) (hpend : s.pend.s = true) :
    exec .isrs s = .next (sampleHandler (clearPending .sample s)) :=
  dispatch_eq_next.mpr ⟨(enabled_iff s .sample).mpr ⟨hgie, hpend⟩, rfl⟩

/-- The frame of the sample handler: it writes the ports and the converter's latch and no other field (R130). -/
theorem sampleHandler_frame (s : State) : sampleHandler s =
    { s with ports := (sampleHandler s).ports, adcLatch := (sampleHandler s).adcLatch } := by
  apply State.ext <;> simp

/-- In a mode with a shift the handler shows the bar of the sample and releases the latch. -/
theorem sampleHandler_of_shift {shift : Nat} (h : shiftOf s.cfg (effMode s.mode) = some shift) : sampleHandler s =
    { s with adcLatch := none
             ports := encodePorts s.cfg.pinTable (thermo (quantize shift (combine s.adcH s.adcL))) s.ports } := by
  obtain ⟨shift', h', e⟩ | ⟨h', -⟩ := sampleHandler_cases s
  · obtain rfl : shift = shift' := Option.some.inj (h.symm.trans h')
    exact e
  · rw [h'] at h
    cases h

/-- In Attract the handler does nothing (R133). -/
theorem sampleHandler_of_attract (h : effMode s.mode = .attract) : sampleHandler s = s := by
  obtain ⟨shift, h', -⟩ | ⟨-, e⟩ := sampleHandler_cases s
  · rw [h] at h'
    cases h'
  · exact e

/-- The bar count on the ports is the field of the sample in numbers. -/
theorem sampleHandler_ports_of_shift {shift : Nat} (h : shiftOf s.cfg (effMode s.mode) = some shift) :
    (sampleHandler s).ports = encodePorts s.cfg.pinTable
      (thermo (BitVec.ofNat 4 ((s.adcH.toNat * 256 + s.adcL.toNat) / 2 ^ shift))) s.ports := by
  rw [sampleHandler_of_shift h, quantize_eq_ofNat, combine_toNat]

/-- To the encoder, ports whose foreign bits are 0 are as good as blank ones (40_encoder.md R80). -/
theorem encodePorts_of_foreign_zero {t : Vector Pin 16} {ps : Ports} (P : Pattern)
    (h : ∀ p, ps.get p &&& ~~~portMask t p = 0#8) : encodePorts t P ps = encodePorts t P ⟨0#8, 0#8, 0#8, 0#8⟩ := by
  refine encodePorts_congr P fun p => ?_
  rw [h p]
  cases p <;> exact BitVec.zero_and.symm

/-- The bar of five LEDs on blank ports, from the worked example of 45_sample_handler.md R130. -/
theorem encodePorts_board_five_leds_blank :
    encodePorts boardPinTable (thermo 5#4) ⟨0#8, 0#8, 0#8, 0#8⟩ = ⟨0x03#8, 0x00#8, 0xF8#8, 0x0F#8⟩ := by decide

/-- Settles O38: the sample handler's frame and its two cases, a mode with a shift and Attract; the flag is the dispatch's.
In the example sample 80 is a bar of five. -/
theorem isrsStep : Obligations.IsrsStep := by
  refine ⟨fun s hgie hpend => ?effect, fun s hcfg hgie hpend hmode hH hL hforeign => ?worked, by decide⟩
  case effect =>
    have hbar {shift : Nat} (h : shiftOf s.cfg (effMode s.mode) = some shift) :=
      sampleHandler_ports_of_shift (s := clearPending .sample s) h
    refine ⟨_, _, exec_isrs hgie hpend, sampleHandler_frame (clearPending .sample s), rfl,
      fun hdirect => hbar (congrArg (shiftOf s.cfg) hdirect), fun hvu => hbar (congrArg (shiftOf s.cfg) hvu),
      fun hattract => ?_⟩
    rw [sampleHandler_of_attract (s := clearPending .sample s) hattract]
    exact ⟨rfl, rfl⟩
  case worked =>
    have hshift : shiftOf s.cfg (effMode s.mode) = some 4 := by rw [hcfg, hmode]; rfl
    refine ⟨_, exec_isrs hgie hpend, ?_⟩
    rw [sampleHandler_ports_of_shift (s := clearPending .sample s) hshift, clearPending_cfg, clearPending_adcH,
      clearPending_adcL, clearPending_ports, hcfg, hH, hL]
    exact (encodePorts_of_foreign_zero _ hforeign).trans encodePorts_board_five_leds_blank

/-- Settles O39: modes 2 and 3 read as Attract, where only the dispatch has an effect (the spec's D21). -/
theorem spuriousSampleIsASilentNoOp : Obligations.SpuriousSampleIsASilentNoOp := by
  intro s hgie hpend hmode
  have hattract : effMode s.mode = .attract := by
    obtain h | h := hmode
    · rw [h, effMode_two]
    · rw [h, effMode_three]
  rw [exec_isrs hgie hpend, sampleHandler_of_attract (s := clearPending .sample s) hattract]
  rfl

/-- The handler commutes with any change of the buffer, the threshold and the phase: it neither reads nor writes them
(R134). -/
theorem sampleHandler_update_buf_slice_phase (buf : Vector Byte 16) (slice : Byte) (phase : BitVec 16) :
    sampleHandler { s with buf := buf, slice := slice, phase := phase } =
      { sampleHandler s with buf := buf, slice := slice, phase := phase } := by
  obtain ⟨shift, hshift, e⟩ | ⟨hattract, e⟩ := sampleHandler_cases s
  · rw [e, sampleHandler_of_shift (s := { s with buf := buf, slice := slice, phase := phase }) hshift]
  · rw [e, sampleHandler_of_attract (s := { s with buf := buf, slice := slice, phase := phase }) hattract]

/-- Settles O40: the handler keeps the three registers and commutes with changing them; so does the dispatch, which reads
and writes the flags only. -/
theorem samplePathBypassesTheBuffer : Obligations.SamplePathBypassesTheBuffer := by
  intro s t buf slice phase h
  obtain ⟨hen, rfl⟩ := dispatch_eq_next.mp h
  refine ⟨sampleHandler_buf _, sampleHandler_slice _, dispatch_eq_next.mpr ⟨hen, ?_⟩⟩
  exact sampleHandler_update_buf_slice_phase (s := clearPending .sample s) buf slice phase

end Sys2Proof.Machine
end

section
/-! Decoding of an encoded operation (30_encoding.md R60 to R63), and the words with a data operand in place. -/

namespace Sys2Proof

/-- A word keeps its three fields apart (30_encoding.md R60). -/
theorem fieldsOf_wordOfFields (f : Fields) : fieldsOf (wordOfFields f) = f := by
  obtain ⟨op, sel, data⟩ := f
  have hop : (op ++ sel ++ data).extractLsb' 20 4 = op := by
    rw [BitVec.extractLsb'_append_eq_of_le (by decide), BitVec.extractLsb'_append_eq_left]
  have hsel : (op ++ sel ++ data).extractLsb' 16 4 = sel := by
    rw [BitVec.extractLsb'_append_eq_of_le (by decide), BitVec.extractLsb'_append_eq_right]
  have hdata : (op ++ sel ++ data).extractLsb' 0 16 = data := BitVec.extractLsb'_append_eq_right
  rw [fieldsOf, wordOfFields, Fields.mk.injEq]
  exact ⟨hop, hsel, hdata⟩

/-- Fields that pass every check decode to the operation they stand for (30_encoding.md R63). -/
theorem decodeFields_of_wellFormed {f : Fields} (h : f.wellFormed = true) : decodeFields f = instrOfFields f := by
  rw [Fields.wellFormed, Bool.and_eq_true, Bool.and_eq_true] at h
  obtain ⟨⟨hop, hsel⟩, hdata⟩ := h
  rw [decodeFields, if_pos hop, if_pos hsel, if_pos hdata]

/-- The fields of every operation pass every check (30_encoding.md R61). -/
theorem wellFormed_fieldsOfInstr (i : Instr) : (fieldsOfInstr i).wellFormed = true := by
  cases i with
  | nop => exact Laws.EncodedFields.nop
  | rst => exact Laws.EncodedFields.rst
  | start => exact Laws.EncodedFields.start
  | stop => exact Laws.EncodedFields.stop
  | tickc => exact Laws.EncodedFields.tickc
  | tickr => exact Laws.EncodedFields.tickr
  | adcdone v => exact Laws.EncodedFields.adcdone v
  | btn level => exact Laws.EncodedFields.btn level
  | pinwr p v => exact Laws.EncodedFields.pinwr p v
  | isrc => exact Laws.EncodedFields.isrc
  | isrr => exact Laws.EncodedFields.isrr
  | isrs => exact Laws.EncodedFields.isrs

theorem portOfSel_selOfPort (p : Port) : portOfSel (selOfPort p) = p := by
  cases p <;> rfl

/-- The fields of an operation stand for it and for its operands (30_encoding.md R61, R62). -/
theorem instrOfFields_fieldsOfInstr (i : Instr) : instrOfFields (fieldsOfInstr i) = .ok i := by
  cases i with
  | pinwr p v =>
    have hv : (v.setWidth 16).extractLsb' 0 8 = v := by
      rw [← BitVec.setWidth_eq_extractLsb' (by decide), BitVec.setWidth_setWidth_of_le _ (by decide), BitVec.setWidth_eq]
    change Except.ok (Instr.pinwr (portOfSel (selOfPort p)) ((v.setWidth 16).extractLsb' 0 8)) = _
    rw [portOfSel_selOfPort, hv]
  | btn level => cases level <;> rfl
  | nop | rst | start | stop | tickc | tickr | adcdone v | isrc | isrr | isrs => rfl

theorem decode_encode (i : Instr) : decode (encode i) = .ok i := by
  rw [decode, encode, fieldsOf_wordOfFields, decodeFields_of_wellFormed (wellFormed_fieldsOfInstr i),
    instrOfFields_fieldsOfInstr]

/-- The data field is the low end of a word, so a data operand is an `or` (30_encoding.md R60). -/
theorem wordOfFields_eq_or (op sel : BitVec 4) (data : BitVec 16) :
    wordOfFields ⟨op, sel, data⟩ = wordOfFields ⟨op, sel, 0#16⟩ ||| data.setWidth 24 := by
  have hdata : data.setWidth 24 = 0#8 ++ data := BitVec.setWidth_eq_append (by decide)
  have hor : (op ++ sel) ++ 0#16 ||| 0#8 ++ data = (op ++ sel) ++ data := by
    rw [BitVec.or_append, BitVec.or_zero, BitVec.zero_or]
  rw [hdata]
  exact hor.symm

theorem decode_adcdone_word (v : Sample) : decode (0x600000#24 ||| v.setWidth 24) = .ok (.adcdone v) := by
  have hword : encode (.adcdone v) = 0x600000#24 ||| v.setWidth 24 := wordOfFields_eq_or 6#4 0#4 v
  rw [← hword, decode_encode]

theorem decode_pinwr_word (p : Port) (v : Byte) :
    decode (wordOfFields ⟨8#4, selOfPort p, 0#16⟩ ||| v.setWidth 24) = .ok (.pinwr p v) := by
  have hword : encode (.pinwr p v) = wordOfFields ⟨8#4, selOfPort p, 0#16⟩ ||| v.setWidth 24 := by
    rw [encode, fieldsOfInstr, wordOfFields_eq_or, BitVec.setWidth_setWidth (by decide)]
  rw [← hword, decode_encode]

end Sys2Proof
end

section
/-! The environment operations of 46_environment_ops.md: what each does (R140 to R148), and who changes a port bit. -/

namespace Sys2Proof.Machine

variable {s t : State}

/-! ### The meaning of each operation, and of several in a row -/

@[simp] theorem exec_nop (s : State) : exec .nop s = .next s := rfl

@[simp] theorem exec_rst (s : State) : exec .rst s = .next (resetBlock s) := rfl

@[simp] theorem exec_start (s : State) : exec .start s = .next (setGie true s) := rfl

@[simp] theorem exec_stop (s : State) : exec .stop s = .next (setGie false s) := rfl

@[simp] theorem exec_tickc (s : State) : exec .tickc s = .next (raiseEvent .control s) := rfl

@[simp] theorem exec_tickr (s : State) : exec .tickr s = .next (raiseEvent .refresh s) := rfl

@[simp] theorem exec_adcdone (v : Sample) (s : State) :
    exec (.adcdone v) s = .next (raiseEvent .sample { s with adcH := highByte v, adcL := lowByte v }) := rfl

@[simp] theorem exec_btn (level : Bool) (s : State) : exec (.btn level) s = .next { s with btnN := level } := rfl

@[simp] theorem exec_pinwr (p : Port) (v : Byte) (s : State) : exec (.pinwr p v) s =
    .next { s with
      ports := s.ports.set p (maskedUpdate (~~~portMask s.cfg.pinTable p) (s.ports.get p) v) } := rfl

@[simp] theorem performAll_nil (s : State) : performAll [] s = .next s := rfl

/-- An operation that has a step hands its state on to the rest of the run. -/
theorem performAll_cons_of_next {i : Instr} (ops : List Instr) (h : exec i s = .next t) :
    performAll (i :: ops) s = performAll ops t := by
  simp only [performAll, h]

theorem performAll_cons_eq_next {i : Instr} {ops : List Instr} :
    performAll (i :: ops) s = .next t ↔ ∃ u, exec i s = .next u ∧ performAll ops u = .next t := by
  cases hi : exec i s with
  | next u => simp [performAll_cons_of_next ops hi]
  | fault r => cases r
  | refused r => simp [performAll, hi]

theorem performAll_singleton (i : Instr) (s : State) : performAll [i] s = exec i s := by
  cases hi : exec i s with
  | next u => rw [performAll_cons_of_next [] hi, performAll_nil]
  | fault r => cases r
  | refused r => simp only [performAll, hi]

/-- Settles O5. -/
theorem nopChangesNothing : Obligations.NopChangesNothing :=
  ⟨exec_nop, by decide⟩

/-! ### Preemption (R142, R143) -/

theorem setGie_setGie (v w : Bool) (s : State) : setGie v (setGie w s) = setGie v s := rfl

/-- `START` or `STOP` twice is once. -/
theorem performAll_setGie_twice {i : Instr} {v : Bool} (h : ∀ s, exec i s = .next (setGie v s)) (s : State) :
    performAll [i, i] s = performAll [i] s := by
  rw [performAll_cons_of_next [i] (h s), performAll_singleton, performAll_singleton, h, h, setGie_setGie]

theorem exec_handler_of_enabled {src : Source} (h : enabled s src = true) :
    exec src.handler s = .next (handlerOf src (clearPending src s)) := by
  rw [exec_handler, dispatch_eq_next]
  exact ⟨h, rfl⟩

theorem enabled_of_exec_handler {src : Source} (h : exec src.handler s = .next t) : enabled s src = true := by
  rw [exec_handler, dispatch_eq_next] at h
  exact h.1

/-- Settles O7: the flag is set and `gie` has just been, so the handler is enabled. -/
theorem startEnablesPreemption : Obligations.StartEnablesPreemption := by
  refine ⟨fun s => ⟨exec_start s, fun src hpend => ⟨_, exec_handler_of_enabled ?_⟩,
    performAll_setGie_twice exec_start s, _, _, rfl, exec_isrr rfl rfl⟩, by decide⟩
  exact (enabled_iff _ src).mpr ⟨rfl, hpend⟩

/-- A handler step uses up its own flag: there is no second one before the next event (60_exceptions.md R168). -/
theorem not_enabled_after_exec_handler {src : Source} (h : exec src.handler s = .next t) : enabled t src ≠ true := by
  rw [exec_handler, dispatch_eq_next] at h
  obtain ⟨-, rfl⟩ := h
  rw [ne_eq, enabled_iff, handlerOf_pend, clearPending_pend, Pending.get_set_self]
  simp

/-- An operation that serves a source is the source's handler operation. -/
theorem eq_handler_of_served {i : Instr} {src : Source} (h : i.served = some src) : i = src.handler := by
  cases i <;> cases h <;> rfl

/-- With preemption off the dispatcher has no step (60_exceptions.md R167). -/
theorem served_eq_none_of_gie_off {i : Instr} (hgie : s.gie = false) (h : exec i s = .next t) : i.served = none := by
  rw [Option.eq_none_iff_forall_ne_some]
  intro src hserved
  rw [eq_handler_of_served hserved] at h
  obtain ⟨hon, -⟩ := (enabled_iff s src).mp (enabled_of_exec_handler h)
  rw [hgie] at hon
  cases hon

/-- Only `START` turns preemption on. -/
theorem exec_gie_off {i : Instr} (hgie : s.gie = false) (hi : i ≠ .start) (h : exec i s = .next t) : t.gie = false := by
  have hserved := served_eq_none_of_gie_off hgie h
  cases i with
  | isrc | isrr | isrs => cases hserved
  | start => exact absurd rfl hi
  | rst => cases h; exact resetBlock_gie s
  | stop => cases h; rfl
  | nop | tickc | tickr | adcdone v | btn level | pinwr p v => cases h; exact hgie

/-- From preemption off, a run without `START` leaves it off and holds no handler step (R143). -/
theorem performAll_gie_off {ops : List Instr} (hgie : s.gie = false) (hops : Instr.start ∉ ops)
    (h : performAll ops s = .next t) : t.gie = false ∧ ∀ i ∈ ops, i.served = none := by
  induction ops generalizing s with
  | nil => cases h; exact ⟨hgie, nofun⟩
  | cons i ops ih =>
    obtain ⟨hi, hrest⟩ := List.ne_and_not_mem_of_not_mem_cons hops
    obtain ⟨u, hexec, hrun⟩ := performAll_cons_eq_next.mp h
    obtain ⟨hoff, hnone⟩ := ih (exec_gie_off hgie hi.symm hexec) hrest hrun
    exact ⟨hoff, List.forall_mem_cons.mpr ⟨served_eq_none_of_gie_off hgie hexec, hnone⟩⟩

/-- Settles O8: a handler step needs `gie`, which only `START` sets, while an event needs nothing. The two ticks of the
example are merged, and the one handler step uses up their flag. -/
theorem stopDisablesPreemptionUntilStart : Obligations.StopDisablesPreemptionUntilStart := by
  refine ⟨fun s => ⟨exec_stop s, performAll_setGie_twice exec_stop s, ?merged⟩,
    fun s t ops hgie hops h => performAll_gie_off hgie hops h, fun s _ => ?events, by decide⟩
  case merged =>
    refine ⟨_, _, rfl, rfl, exec_isrc rfl rfl, fun v hv => ?_⟩
    exact not_enabled_after_exec_handler (src := .control) (exec_isrc rfl rfl)
      (enabled_of_exec_handler (src := .control) hv)
  case events => exact ⟨⟨_, exec_tickc s, rfl⟩, ⟨_, exec_tickr s, rfl⟩, fun v => ⟨_, exec_adcdone v s, rfl⟩⟩

/-! ### Events (R144 to R146) -/

/-- Settles O9: the flag of the source is set, whatever it was. -/
theorem ticksSetTheirFlags : Obligations.TicksSetTheirFlags :=
  ⟨fun s => ⟨exec_tickc s, exec_tickr s⟩, by decide, by decide⟩

theorem highByte_toNat (v : Sample) : (highByte v).toNat = v.toNat / 256 := by
  rw [highByte, BitVec.extractLsb'_toNat, Nat.shiftRight_eq_div_pow]
  omega

theorem lowByte_toNat (v : Sample) : (lowByte v).toNat = v.toNat % 256 := by
  rw [lowByte, BitVec.extractLsb'_toNat, Nat.shiftRight_zero]

/-- Settles O10: the two bytes in numbers; a word of `ADCDONE` decodes for every operand. -/
theorem adcdoneDeliversTheResult : Obligations.AdcdoneDeliversTheResult :=
  ⟨fun s v => ⟨highByte v, lowByte v, exec_adcdone v s, highByte_toNat v, lowByte_toNat v⟩,
    exec_adcdone 0x0155#16, decode_adcdone_word⟩

/-! ### The button pin (R147) -/

/-- Of several levels only the last one remains: each replaces the one before. -/
theorem performAll_btn_levels (levels : List Bool) (level : Bool) (s : State) :
    performAll (levels.map Instr.btn ++ [.btn level]) s = .next { s with btnN := level } := by
  induction levels generalizing s with
  | nil => rfl
  | cons first levels ih =>
    rw [List.map_cons, List.cons_append, performAll_cons_of_next _ (exec_btn first s), ih]

/-- Settles O11: the last level replaces the ones before; a release puts back the level of a button that was released. -/
theorem btnDrivesThePin : Obligations.BtnDrivesThePin := by
  refine ⟨fun s level => exec_btn level s, fun s levels level => performAll_btn_levels levels level s,
    fun s hreleased => ?_, by decide, by decide⟩
  have hback : { s with btnN := true } = s := by rw [← hreleased]
  rw [performAll_cons_of_next _ (exec_btn false s), performAll_cons_of_next _ (exec_btn true _),
    performAll_singleton, hback]

/-! ### `RST` (R141) -/

/-- The frame of `RST`: it writes the block's registers and no other field. -/
theorem resetBlock_frame (s : State) : resetBlock s =
    { s with buf := (resetBlock s).buf, mode := (resetBlock s).mode, adcTrig := (resetBlock s).adcTrig,
             debounce := 0#8, slice := 0#8, phase := 0#16, ports := (resetBlock s).ports,
             pend := ⟨false, false, false⟩, gie := false } := by
  apply State.ext <;> simp

/-- `RST` in a boot mode: the mode register and the trigger that follows it. -/
theorem resetBlock_mode_adcTrig {m : Mode} (h : s.cfg.bootMode = m) :
    (resetBlock s).mode = modeCode m ∧ (resetBlock s).adcTrig = trigCode (trigOf m) := by
  rw [resetBlock_mode, resetBlock_adcTrig, h]
  exact ⟨rfl, rfl⟩

/-- `RST` sets the display bits and keeps the foreign ones. -/
theorem resetBlock_ports_getLsbD (s : State) (p : Port) (n : Fin 8) :
    ((resetBlock s).ports.get p).getLsbD n = true ↔
      IsDisplayBit s.cfg.pinTable p n ∨ (s.ports.get p).getLsbD n = true := by
  rw [resetBlock_ports, Ports.get_ofFn, BitVec.getLsbD_or, Bool.or_eq_true, portMask_getLsbD, or_comm]

/-- Bits that all lie under a mask add nothing to it. -/
theorem or_eq_mask {x mask : Byte} (h : x &&& ~~~mask = 0#8) : x ||| mask = mask := by
  ext i hi
  have hbit : (x &&& ~~~mask)[i] = false := by rw [h, BitVec.getElem_zero]
  rw [BitVec.getElem_and, BitVec.getElem_not] at hbit
  rw [BitVec.getElem_or]
  cases hm : mask[i] with
  | true => exact Bool.or_true _
  | false => rwa [hm, Bool.not_false, Bool.and_true, ← Bool.or_false x[i]] at hbit

/-- With foreign bits 0, `RST` leaves the masks themselves. -/
theorem resetBlock_ports_of_foreign_zero (h : ∀ p, s.ports.get p &&& ~~~portMask s.cfg.pinTable p = 0#8) :
    (resetBlock s).ports = Ports.ofFn (portMask s.cfg.pinTable) := by
  refine Ports.ext_get fun p => ?_
  rw [resetBlock_ports, Ports.get_ofFn, Ports.get_ofFn, or_eq_mask (h p)]

/-- The board's masks, and the dark display they show (10_state.md R15). -/
theorem portMask_board : Ports.ofFn (portMask boardPinTable) = ⟨0x03#8, 0x3C#8, 0xFC#8, 0x0F#8⟩ := by decide

theorem decodePorts_board_masks : decodePorts boardPinTable ⟨0x03#8, 0x3C#8, 0xFC#8, 0x0F#8⟩ = 0#16 := by decide

/-- Settles O6: the frame of `RST`, the boot mode by cases, the ports bit by bit and as the board's masks (the spec's D4,
D14, D15 and D16). -/
theorem rstSetsTheBlockRegisters : Obligations.RstSetsTheBlockRegisters := by
  refine ⟨fun s => ⟨_, exec_rst s, resetBlock_frame s, resetBlock_buf s, resetBlock_mode_adcTrig,
    resetBlock_mode_adcTrig, resetBlock_mode_adcTrig, resetBlock_ports_getLsbD s, fun hboard hforeign => ?_⟩,
    rfl, by decide⟩
  have hports : (resetBlock s).ports = ⟨0x03#8, 0x3C#8, 0xFC#8, 0x0F#8⟩ := by
    rw [← hboard] at hforeign
    rw [resetBlock_ports_of_foreign_zero hforeign, hboard, portMask_board]
  exact ⟨hports, hports ▸ decodePorts_board_masks⟩

/-! ### `PINWR` (R148) -/

theorem not_portMask_getLsbD (t : Vector Pin 16) (p : Port) (n : Fin 8) :
    (~~~portMask t p).getLsbD n = true ↔ ¬ IsDisplayBit t p n := by
  rw [← portMask_getLsbD, BitVec.getLsbD_not]
  simp

/-- An update outside the mask keeps a display bit. -/
theorem maskedUpdate_not_portMask_display {t : Vector Pin 16} {p : Port} {n : Fin 8} (old v : Byte)
    (h : IsDisplayBit t p n) : (maskedUpdate (~~~portMask t p) old v).getLsbD n = old.getLsbD n := by
  rw [maskedUpdate_getLsbD, if_neg fun hn => (not_portMask_getLsbD t p n).mp hn h]

/-- An update outside the mask writes a foreign bit. -/
theorem maskedUpdate_not_portMask_foreign {t : Vector Pin 16} {p : Port} {n : Fin 8} (old v : Byte)
    (h : ¬ IsDisplayBit t p n) : (maskedUpdate (~~~portMask t p) old v).getLsbD n = v.getLsbD n := by
  rw [maskedUpdate_getLsbD, if_pos ((not_portMask_getLsbD t p n).mpr h)]

/-- The worked example of R148 on port D of the board: bits 0 and 1 are foreign. -/
theorem exec_pinwr_board_d (hboard : s.cfg.pinTable = boardPinTable) (hd : s.ports.d = 0xFC#8) (v : Byte) :
    exec (.pinwr .d v) s = .next { s with ports := { s.ports with d := maskedUpdate 0x03#8 0xFC#8 v } } := by
  have hmask : ~~~portMask boardPinTable .d = 0x03#8 := by decide
  rw [exec_pinwr, hboard, hmask, ← hd]
  rfl

/-! ### Who changes a port bit -/

/-- `RST` keeps a foreign bit. -/
theorem resetBlock_foreign {p : Port} {n : Fin 8} (h : ¬ IsDisplayBit s.cfg.pinTable p n) :
    ((resetBlock s).ports.get p).getLsbD n = (s.ports.get p).getLsbD n := by
  rw [Bool.eq_iff_iff, resetBlock_ports_getLsbD, or_iff_right h]

/-- A handler keeps a foreign bit: it writes the ports through the encoder or not at all. -/
theorem handlerOf_foreign (src : Source) {p : Port} {n : Fin 8} (h : ¬ IsDisplayBit s.cfg.pinTable p n) :
    ((handlerOf src s).ports.get p).getLsbD n = (s.ports.get p).getLsbD n := by
  cases src with
  | control => rw [handlerOf, controlHandler_ports]
  | refresh =>
    rw [handlerOf, refreshHandler_ports]
    split
    · exact encodePorts_foreign _ _ _ p n h
    · rfl
  | sample =>
    rw [handlerOf]
    obtain ⟨shift, -, e⟩ | ⟨-, e⟩ := sampleHandler_cases s
    · rw [e]
      exact encodePorts_foreign _ _ _ p n h
    · rw [e]

/-- A dispatcher operation keeps a foreign bit: the dispatch writes no port, and no handler writes a foreign bit. -/
theorem exec_handler_foreign {src : Source} {p : Port} {n : Fin 8} (h : exec src.handler s = .next t)
    (hforeign : ¬ IsDisplayBit s.cfg.pinTable p n) : (t.ports.get p).getLsbD n = (s.ports.get p).getLsbD n := by
  rw [exec_handler, dispatch_eq_next] at h
  obtain ⟨-, rfl⟩ := h
  exact handlerOf_foreign (s := clearPending src s) src hforeign

/-- Only `PINWR` to its port changes a foreign bit. -/
theorem exec_foreign {i : Instr} {p : Port} {n : Fin 8} (h : exec i s = .next t)
    (hforeign : ¬ IsDisplayBit s.cfg.pinTable p n) (hi : ∀ v, i ≠ .pinwr p v) :
    (t.ports.get p).getLsbD n = (s.ports.get p).getLsbD n := by
  cases i with
  | rst => cases h; exact resetBlock_foreign hforeign
  | isrc => exact exec_handler_foreign (src := .control) h hforeign
  | isrr => exact exec_handler_foreign (src := .refresh) h hforeign
  | isrs => exact exec_handler_foreign (src := .sample) h hforeign
  | pinwr q v =>
    have hpq : p ≠ q := fun e => hi v (e ▸ rfl)
    cases h
    exact congrArg (·.getLsbD n) (Ports.get_set_ne s.ports _ hpq)
  | nop | start | stop | tickc | tickr | adcdone v | btn level => cases h; rfl

/-- Only `RST` and the encoder's two callers change a display bit. -/
theorem exec_display {i : Instr} {p : Port} {n : Fin 8} (h : exec i s = .next t)
    (hdisplay : IsDisplayBit s.cfg.pinTable p n) (hi : ¬ (i = .rst ∨ i = .isrr ∨ i = .isrs)) :
    (t.ports.get p).getLsbD n = (s.ports.get p).getLsbD n := by
  cases i with
  | rst | isrr | isrs => simp at hi
  | isrc =>
    obtain ⟨-, rfl⟩ := dispatch_eq_next.mp h
    rw [controlHandler_ports, clearPending_ports]
  | pinwr q v =>
    cases h
    by_cases hpq : p = q
    · subst hpq
      exact (congrArg (·.getLsbD n) (Ports.get_set_self s.ports p _)).trans
        (maskedUpdate_not_portMask_display _ v hdisplay)
    · exact congrArg (·.getLsbD n) (Ports.get_set_ne s.ports _ hpq)
  | nop | start | stop | tickc | tickr | adcdone v | btn level => cases h; rfl

/-- Settles O12: the written byte bit by bit, the example by the board's mask of port D, and who changes a bit by
`exec_display` and `exec_foreign` (the spec's D20). -/
theorem pinwrWritesOnlyForeignBits : Obligations.PinwrWritesOnlyForeignBits := by
  refine ⟨fun s p v => ⟨_, exec_pinwr p v s, fun n => ?bits⟩, fun s hboard hd => ?portD,
    fun i s t p n h hchanged => ?writers, fun v => ?words⟩
  case bits => exact ⟨maskedUpdate_not_portMask_display _ v, maskedUpdate_not_portMask_foreign _ v⟩
  case portD =>
    exact ⟨exec_pinwr_board_d hboard hd _, exec_pinwr_board_d hboard hd _, exec_pinwr_board_d hboard hd _⟩
  case writers =>
    by_cases hbit : IsDisplayBit s.cfg.pinTable p n
    · refine .inl ⟨hbit, ?_⟩
      by_contra hi
      exact hchanged (exec_display h hbit hi)
    · refine .inr ⟨hbit, ?_⟩
      by_contra hi
      exact hchanged (exec_foreign h hbit (not_exists.mp hi))
  case words =>
    exact ⟨decode_pinwr_word .b v, decode_pinwr_word .c v, decode_pinwr_word .d v, decode_pinwr_word .e v⟩

end Sys2Proof.Machine
end

section
/-! Events, pending flags and dispatch of 60_exceptions.md: what an operation does to the flags (R165, R168), and when a
handler step exists (R167, R171). -/

namespace Sys2Proof.Machine

variable {s t : State}

/-! ### What an operation does to the flags -/

/-- An event is never refused, and of the flags it sets its own source's (R165). -/
theorem exec_event {i : Instr} {src : Source} (s : State) (h : eventOf i = some src) :
    ∃ t, exec i s = .next t ∧ t.pend = s.pend.set src true := by
  cases i with
  | tickc | tickr | adcdone v => cases h; exact ⟨_, rfl, rfl⟩
  | nop | rst | start | stop | btn level | pinwr p v | isrc | isrr | isrs => cases h

/-- A handler step clears its own flag, by its dispatch: the handler itself writes none (R168). -/
theorem exec_handler_pend {src : Source} (h : exec src.handler s = .next t) : t.pend = s.pend.set src false := by
  rw [exec_handler, dispatch_eq_next] at h
  obtain ⟨-, rfl⟩ := h
  rw [handlerOf_pend, clearPending_pend]

/-- All that an operation can do to the flags: `RST`, a handler step, an event, or nothing. -/
theorem exec_pend_cases {i : Instr} (h : exec i s = .next t) :
    (i = .rst ∧ t.pend = ⟨false, false, false⟩) ∨
      (∃ src : Source, i = src.handler ∧ t.pend = s.pend.set src false) ∨
      (∃ src, eventOf i = some src ∧ t.pend = s.pend.set src true) ∨ t.pend = s.pend := by
  cases i with
  | rst => cases h; exact .inl ⟨rfl, resetBlock_pend s⟩
  | isrc => exact .inr (.inl ⟨.control, rfl, exec_handler_pend h⟩)
  | isrr => exact .inr (.inl ⟨.refresh, rfl, exec_handler_pend h⟩)
  | isrs => exact .inr (.inl ⟨.sample, rfl, exec_handler_pend h⟩)
  | tickc | tickr | adcdone v => cases h; exact .inr (.inr (.inl ⟨_, rfl, rfl⟩))
  | nop | start | stop | btn level | pinwr p v => cases h; exact .inr (.inr (.inr rfl))

/-- Setting a flag clears none. -/
theorem Pending.get_set_true {f : Pending} {src : Source} (other : Source) (h : f.get src = true) :
    (f.set other true).get src = true := by
  by_cases hsrc : src = other
  · rw [hsrc, Pending.get_set_self]
  · rw [Pending.get_set_ne f true hsrc, h]

/-- Settles O13: by `exec_pend_cases` only `RST` and handler steps clear a flag, and a handler step only its own (the spec's
D13). -/
theorem flagWaitsForItsHandler : Obligations.FlagWaitsForItsHandler := by
  constructor
  · intro i src s hevent
    obtain ⟨t, hexec, hpend⟩ := exec_event s hevent
    exact ⟨t, hexec, by rw [hpend, Pending.get_set_self]⟩
  · intro i src s t hexec hset hhandler hrst
    obtain ⟨hi, -⟩ | ⟨other, rfl, hpend⟩ | ⟨other, -, hpend⟩ | hpend := exec_pend_cases hexec
    · exact absurd hi hrst
    · have hne : src ≠ other := fun e => hhandler (e ▸ rfl)
      rw [hpend, Pending.get_set_ne s.pend false hne, hset]
    · rw [hpend, Pending.get_set_true other hset]
    · rw [hpend, hset]

/-! ### When an operation has a step -/

theorem exists_exec_handler_iff_enabled (s : State) (src : Source) :
    (∃ t, exec src.handler s = .next t) ↔ enabled s src = true :=
  ⟨fun ⟨_, h⟩ => enabled_of_exec_handler h, fun h => ⟨_, exec_handler_of_enabled h⟩⟩

/-- The environment can always act (R167). -/
theorem exists_exec_of_served_eq_none {i : Instr} (s : State) (h : i.served = none) : ∃ t, exec i s = .next t := by
  cases i with
  | nop | rst | start | stop | tickc | tickr | adcdone v | btn level | pinwr p v => exact ⟨_, rfl⟩
  | isrc | isrr | isrs => cases h

theorem Pending.exists_get_iff (f : Pending) :
    (∃ src, f.get src = true) ↔ f.c = true ∨ f.r = true ∨ f.s = true := by
  constructor
  · rintro ⟨src, h⟩
    cases src with
    | control => exact .inl h
    | refresh => exact .inr (.inl h)
    | sample => exact .inr (.inr h)
  · rintro (h | h | h)
    · exact ⟨.control, h⟩
    · exact ⟨.refresh, h⟩
    · exact ⟨.sample, h⟩

/-- Settles O15: a handler step exists iff its handler is enabled, that is `gie` and its flag are set; the next state is
unique because `exec` is a function (the spec's D13). -/
theorem handlerStepExistsIffEnabled : Obligations.HandlerStepExistsIffEnabled := by
  refine ⟨fun s src => ?iff, fun s i h => exists_exec_of_served_eq_none s h, fun s hgie hset => ?owed,
    fun s src hen => ?unique⟩
  case iff => rw [exists_exec_handler_iff_enabled, enabled_iff]
  case owed =>
    obtain ⟨src, hpend⟩ := (Pending.exists_get_iff s.pend).mpr hset
    exact ⟨src, (exists_exec_handler_iff_enabled s src).mpr ((enabled_iff s src).mpr ⟨hgie, hpend⟩)⟩
  case unique =>
    have hexec := exec_handler_of_enabled hen
    refine ⟨_, hexec, fun t ht => ?_⟩
    rw [hexec] at ht
    cases ht
    rfl

end Sys2Proof.Machine
end

section
/-! The opcode map of 30_encoding.md: the encoder inverts the decoder (R60 to R63), and the mask and match rows (R62). -/

namespace Sys2Proof

/-! ### From a word to its operation and back -/

/-- A word is made of its three fields (30_encoding.md R60). -/
theorem wordOfFields_fieldsOf (w : Word) : wordOfFields (fieldsOf w) = w := by
  have hlow : (w.extractLsb' 20 4 ++ w.extractLsb' 16 4 : BitVec 8) = w.extractLsb' 16 8 :=
    BitVec.extractLsb'_append_extractLsb'_eq_extractLsb' rfl
  have hword : (w.extractLsb' 16 8 ++ w.extractLsb' 0 16 : Word) = w.extractLsb' 0 24 :=
    BitVec.extractLsb'_append_extractLsb'_eq_extractLsb' rfl
  rw [wordOfFields, fieldsOf, hlow, hword, BitVec.extractLsb'_eq_self]

/-- Only fields that pass every check decode to an operation (30_encoding.md R63). -/
theorem decodeFields_eq_ok {f : Fields} {i : Instr} :
    decodeFields f = .ok i ↔ f.wellFormed = true ∧ instrOfFields f = .ok i := by
  simp only [decodeFields, Fields.wellFormed]
  cases f.opKnown <;> cases f.selOk <;> cases f.dataOk <;> simp

theorem decode_eq_ok {w : Word} {i : Instr} :
    decode w = .ok i ↔ (fieldsOf w).wellFormed = true ∧ instrOfFields (fieldsOf w) = .ok i :=
  decodeFields_eq_ok

theorem Fields.wellFormed_iff (f : Fields) :
    f.wellFormed = true ↔ f.opKnown = true ∧ f.selOk = true ∧ f.dataOk = true := by
  rw [Fields.wellFormed, Bool.and_eq_true, Bool.and_eq_true, and_assoc]

/-- An operation without operands has `sel = 0` and `data = 0` (30_encoding.md R61). -/
theorem Fields.eq_of_no_operand {f : Fields} {n : Nat} (hop : f.op.toNat = n) (hn : n ≠ 6 ∧ n ≠ 7 ∧ n ≠ 8)
    (hwf : f.wellFormed = true) : ⟨BitVec.ofNat 4 n, 0#4, 0#16⟩ = f := by
  obtain ⟨-, hsel, hdata⟩ := f.wellFormed_iff.mp hwf
  obtain ⟨op, sel, data⟩ := f
  obtain ⟨h6, h7, h8⟩ : op ≠ 6#4 ∧ op ≠ 7#4 ∧ op ≠ 8#4 := by
    simp only at hop
    refine ⟨?_, ?_, ?_⟩ <;> rintro rfl <;> simp [← hop] at hn
  have hopn : BitVec.ofNat 4 n = op := by rw [← hop, BitVec.ofNat_toNat, BitVec.setWidth_eq]
  simp_all [Fields.selOk, Fields.dataOk]

/-- The operand of `BTN` is its `data` field (30_encoding.md R61). -/
theorem ite_getLsbD_zero {data : BitVec 16} (h : data.toNat < 2) :
    (if data.getLsbD 0 then 1#16 else 0#16) = data := by
  apply BitVec.eq_of_toNat_eq
  rw [← BitVec.testBit_toNat]
  interval_cases data.toNat <;> rfl

/-- The selector of `PINWR` has its two high bits clear (30_encoding.md R61). -/
theorem selOfPort_portOfSel {sel : BitVec 4} (h : sel.toNat < 4) : selOfPort (portOfSel sel) = sel := by
  revert sel; decide

/-- The field of `PINWR` holds a byte (30_encoding.md R61). -/
theorem setWidth_low_byte {data : BitVec 16} (h : data.toNat < 256) : (data.extractLsb' 0 8).setWidth 16 = data := by
  apply BitVec.eq_of_toNat_eq
  rw [BitVec.toNat_setWidth, BitVec.extractLsb'_toNat, Nat.shiftRight_zero]
  omega

/-- Well-formed fields are the encoder's fields of the operation they stand for (30_encoding.md R61, R62). -/
theorem fieldsOfInstr_of_instrOfFields {f : Fields} {i : Instr} (hwf : f.wellFormed = true)
    (h : instrOfFields f = .ok i) : fieldsOfInstr i = f := by
  obtain ⟨-, hsel, hdata⟩ := f.wellFormed_iff.mp hwf
  have hopn {n : Nat} (hop : f.op.toNat = n) : f.op = BitVec.ofNat 4 n := by
    rw [← hop, BitVec.ofNat_toNat, BitVec.setWidth_eq]
  unfold instrOfFields at h
  split at h <;> cases h
  case h_7 hop =>
    have hsel0 : f.sel = 0#4 := by simpa [Fields.selOk, hopn hop] using hsel
    rw [fieldsOfInstr, ← hsel0, ← hopn hop]
  case h_8 hop =>
    have hsel0 : f.sel = 0#4 := by simpa [Fields.selOk, hopn hop] using hsel
    have hbit : f.data.toNat < 2 := by simpa [Fields.dataOk, hopn hop] using hdata
    rw [fieldsOfInstr, ite_getLsbD_zero hbit, ← hsel0, ← hopn hop]
  case h_9 hop =>
    have hport : f.sel.toNat < 4 := by simpa [Fields.selOk, hopn hop] using hsel
    have hbyte : f.data.toNat < 256 := by simpa [Fields.dataOk, hopn hop] using hdata
    rw [fieldsOfInstr, selOfPort_portOfSel hport, setWidth_low_byte hbyte, ← hopn hop]
  all_goals exact Fields.eq_of_no_operand ‹f.op.toNat = _› (by decide) hwf

theorem encode_of_decode {w : Word} {i : Instr} (h : decode w = .ok i) : encode i = w := by
  obtain ⟨hwf, hi⟩ := decode_eq_ok.mp h
  rw [encode, fieldsOfInstr_of_instrOfFields hwf hi, wordOfFields_fieldsOf]

/-- Settles O1: the fields of an operation are well formed and stand for it (`decode_encode`). -/
theorem decodeOfEncodeIsTheOperation : Obligations.DecodeOfEncodeIsTheOperation :=
  decode_encode

/-- Settles O2: an operation determines the fields of every word that decodes to it (`encode_of_decode`). -/
theorem encodeOfDecodeIsTheWord : Obligations.EncodeOfDecodeIsTheWord :=
  fun _ _ => encode_of_decode

/-! ### The mask and match rows (30_encoding.md R62) -/

/-- A masked word has its fields masked. -/
theorem and_wordOfFields (f g : Fields) :
    wordOfFields f &&& wordOfFields g = wordOfFields ⟨f.op &&& g.op, f.sel &&& g.sel, f.data &&& g.data⟩ :=
  BitVec.and_append.trans (congrArg (· ++ (f.data &&& g.data)) BitVec.and_append)

/-- A row covers a word iff it covers each of the three fields. -/
theorem OpcodeRow.covers_iff {m : String} (mask pattern : Fields) {w : Word} :
    (⟨m, wordOfFields mask, wordOfFields pattern⟩ : OpcodeRow).covers w = true ↔
      (fieldsOf w).op &&& mask.op = pattern.op ∧ (fieldsOf w).sel &&& mask.sel = pattern.sel ∧
        (fieldsOf w).data &&& mask.data = pattern.data := by
  have hinj {f g : Fields} : wordOfFields f = wordOfFields g ↔ f = g :=
    ⟨fun h => by rw [← fieldsOf_wordOfFields f, h, fieldsOf_wordOfFields], congrArg _⟩
  rw [OpcodeRow.covers, decide_eq_true_eq, ← Fields.mk.injEq, ← hinj, ← and_wordOfFields, wordOfFields_fieldsOf]

/-- Under a full mask a row covers its own pattern only. -/
theorem OpcodeRow.covers_fullMask {m : String} {pattern w : Word} :
    (⟨m, 0xFFFFFF#24, pattern⟩ : OpcodeRow).covers w = true ↔ w = pattern := by
  have hfull : w &&& 0xFFFFFF#24 = w := BitVec.and_allOnes
  rw [OpcodeRow.covers, decide_eq_true_eq, hfull]

/-- A field that is 0 above its `k` low bits is below `2 ^ k`. -/
theorem toNat_lt_of_and_high {n k : Nat} {x high : BitVec n} (hlow : (~~~high).toNat = 2 ^ k - 1)
    (h : x &&& high = 0#n) : x.toNat < 2 ^ k := by
  have hx : x &&& ~~~high = x := by
    ext j hj
    have hbit : (x &&& high)[j] = false := by rw [h, BitVec.getElem_zero]
    rw [BitVec.getElem_and] at hbit
    rw [BitVec.getElem_and, BitVec.getElem_not]
    cases hxj : x[j] with
    | false => rfl
    | true => rw [hxj, Bool.true_and] at hbit; rw [hbit]; rfl
  rw [← hx, BitVec.toNat_and, hlow, Nat.and_two_pow_sub_one_eq_mod]
  exact Nat.mod_lt _ (Nat.two_pow_pos k)

/-- A row without operands covers the word of its operation only. -/
theorem decode_of_covers_fixed {m : String} {w : Word} (i : Instr)
    (h : (⟨m, 0xFFFFFF#24, encode i⟩ : OpcodeRow).covers w = true) : decode w = .ok i := by
  rw [OpcodeRow.covers_fullMask.mp h, decode_encode]

theorem decode_of_covers_adcdone {m : String} {w : Word}
    (h : (⟨m, 0xFF0000#24, 0x600000#24⟩ : OpcodeRow).covers w = true) :
    decode w = .ok (.adcdone (fieldsOf w).data) := by
  obtain ⟨hop, hsel, -⟩ := (OpcodeRow.covers_iff ⟨0xF#4, 0xF#4, 0x0000#16⟩ ⟨6#4, 0#4, 0#16⟩).mp h
  have hop : (fieldsOf w).op = 6#4 := BitVec.and_allOnes.symm.trans hop
  have hsel : (fieldsOf w).sel = 0#4 := BitVec.and_allOnes.symm.trans hsel
  refine decode_eq_ok.mpr ⟨?_, ?_⟩
  · simp [Fields.wellFormed, Fields.opKnown, Fields.selOk, Fields.dataOk, hop, hsel]
  · simp [instrOfFields, hop]

theorem decode_of_covers_btn {m : String} {w : Word}
    (h : (⟨m, 0xFFFFFE#24, 0x700000#24⟩ : OpcodeRow).covers w = true) :
    decode w = .ok (.btn ((fieldsOf w).data.getLsbD 0)) := by
  obtain ⟨hop, hsel, hdata⟩ := (OpcodeRow.covers_iff ⟨0xF#4, 0xF#4, 0xFFFE#16⟩ ⟨7#4, 0#4, 0#16⟩).mp h
  have hop : (fieldsOf w).op = 7#4 := BitVec.and_allOnes.symm.trans hop
  have hsel : (fieldsOf w).sel = 0#4 := BitVec.and_allOnes.symm.trans hsel
  have hbit : (fieldsOf w).data.toNat < 2 := toNat_lt_of_and_high (k := 1) (by decide) hdata
  refine decode_eq_ok.mpr ⟨?_, ?_⟩
  · simp [Fields.wellFormed, Fields.opKnown, Fields.selOk, Fields.dataOk, hop, hsel, hbit]
  · simp [instrOfFields, hop]

theorem decode_of_covers_pinwr {m : String} {w : Word}
    (h : (⟨m, 0xFCFF00#24, 0x800000#24⟩ : OpcodeRow).covers w = true) :
    decode w = .ok (.pinwr (portOfSel (fieldsOf w).sel) ((fieldsOf w).data.extractLsb' 0 8)) := by
  obtain ⟨hop, hsel, hdata⟩ := (OpcodeRow.covers_iff ⟨0xF#4, 0xC#4, 0xFF00#16⟩ ⟨8#4, 0#4, 0#16⟩).mp h
  have hop : (fieldsOf w).op = 8#4 := BitVec.and_allOnes.symm.trans hop
  have hport : (fieldsOf w).sel.toNat < 4 := toNat_lt_of_and_high (k := 2) (by decide) hsel
  have hbyte : (fieldsOf w).data.toNat < 256 := toNat_lt_of_and_high (k := 8) (by decide) hdata
  refine decode_eq_ok.mpr ⟨?_, ?_⟩
  · simp [Fields.wellFormed, Fields.opKnown, Fields.selOk, Fields.dataOk, hop, hport, hbyte]
  · simp [instrOfFields, hop]

/-- A covered word is legal, and its operation is of the row. -/
theorem decode_of_covers {r : OpcodeRow} (hr : r ∈ opcodeTable) {w : Word} (h : r.covers w = true) :
    ∃ i, decode w = .ok i ∧ i.mnemonic = r.mnemonic := by
  simp only [opcodeTable, List.mem_cons, List.not_mem_nil, or_false] at hr
  obtain rfl | rfl | rfl | rfl | rfl | rfl | rfl | rfl | rfl | rfl | rfl | rfl := hr
  · exact ⟨_, decode_of_covers_fixed .nop h, rfl⟩
  · exact ⟨_, decode_of_covers_fixed .rst h, rfl⟩
  · exact ⟨_, decode_of_covers_fixed .start h, rfl⟩
  · exact ⟨_, decode_of_covers_fixed .stop h, rfl⟩
  · exact ⟨_, decode_of_covers_fixed .tickc h, rfl⟩
  · exact ⟨_, decode_of_covers_fixed .tickr h, rfl⟩
  · exact ⟨_, decode_of_covers_adcdone h, rfl⟩
  · exact ⟨_, decode_of_covers_btn h, rfl⟩
  · exact ⟨_, decode_of_covers_pinwr h, rfl⟩
  · exact ⟨_, decode_of_covers_fixed .isrc h, rfl⟩
  · exact ⟨_, decode_of_covers_fixed .isrr h, rfl⟩
  · exact ⟨_, decode_of_covers_fixed .isrs h, rfl⟩

theorem covers_encode_adcdone (v : Sample) :
    (⟨"ADCDONE", 0xFF0000#24, 0x600000#24⟩ : OpcodeRow).covers (encode (.adcdone v)) = true := by
  refine (OpcodeRow.covers_iff ⟨0xF#4, 0xF#4, 0x0000#16⟩ ⟨6#4, 0#4, 0#16⟩).mpr ?_
  rw [encode, fieldsOf_wordOfFields]
  exact ⟨BitVec.and_allOnes, BitVec.zero_and, BitVec.and_zero⟩

theorem covers_encode_pinwr (p : Port) (v : Byte) :
    (⟨"PINWR", 0xFCFF00#24, 0x800000#24⟩ : OpcodeRow).covers (encode (.pinwr p v)) = true := by
  have hsel : selOfPort p &&& 0xC#4 = 0#4 := by cases p <;> rfl
  have hdata : v.setWidth 16 &&& 0xFF00#16 = 0#16 := by
    have hbytes : (0#8 ++ v) &&& (0xFF#8 ++ 0#8) = 0#8 ++ 0#8 := by
      rw [BitVec.and_append, BitVec.zero_and, BitVec.and_zero]
    rwa [BitVec.setWidth_eq_append (by decide)]
  refine (OpcodeRow.covers_iff ⟨0xF#4, 0xC#4, 0xFF00#16⟩ ⟨8#4, 0#4, 0#16⟩).mpr ?_
  rw [encode, fieldsOf_wordOfFields]
  exact ⟨BitVec.and_allOnes, hsel, hdata⟩

/-- The row of an operation covers its word. -/
theorem covers_encode (i : Instr) : ∀ r ∈ opcodeTable, r.mnemonic = i.mnemonic → r.covers (encode i) = true := by
  cases i with
  | adcdone v => simpa [opcodeTable, Instr.mnemonic] using covers_encode_adcdone v
  | pinwr p v => simpa [opcodeTable, Instr.mnemonic] using covers_encode_pinwr p v
  | btn level => cases level <;> decide
  | nop | rst | start | stop | tickc | tickr | isrc | isrr | isrs => decide

/-- Every operation has a row. -/
theorem exists_row (i : Instr) : ∃ r ∈ opcodeTable, r.mnemonic = i.mnemonic := by
  cases i <;> simp [opcodeTable, Instr.mnemonic]

theorem covers_iff_decode {r : OpcodeRow} (hr : r ∈ opcodeTable) (w : Word) :
    r.covers w = true ↔ ∃ i, decode w = .ok i ∧ i.mnemonic = r.mnemonic := by
  constructor
  · exact decode_of_covers hr
  · rintro ⟨i, hi, hm⟩
    rw [← encode_of_decode hi]
    exact covers_encode i r hr hm.symm

/-- Settles O3: a row covers the words of its own operations (`covers_iff_decode`), and every operation has a row. -/
theorem legalWordsAreThoseOfTheOpcodeRows : Obligations.LegalWordsAreThoseOfTheOpcodeRows := by
  refine ⟨fun w r hr => covers_iff_decode hr w, fun w => ⟨?_, fun hnone => ?_⟩⟩
  · rintro ⟨e, he⟩ r hr
    rw [← Bool.not_eq_true, covers_iff_decode hr]
    rintro ⟨i, hi, -⟩
    rw [he] at hi
    cases hi
  · cases hd : decode w with
    | error e => exact ⟨e, rfl⟩
    | ok i =>
      obtain ⟨r, hr, hm⟩ := exists_row i
      have hcovers := (covers_iff_decode hr w).mpr ⟨i, hd, hm.symm⟩
      rw [hnone r hr] at hcovers
      cases hcovers

/-- Settles O4: ten closed instances of the decoder. -/
theorem wordsOfTheOpcodeMapDecode : Obligations.WordsOfTheOpcodeMapDecode := by
  unfold Obligations.WordsOfTheOpcodeMapDecode
  decide

end Sys2Proof
end

section
/-! The named locations and registers of 10_state.md and 20_memory.md: reads and writes (R41, R44), who writes each
register, what each operation leaves, and what a dispatch leaves. -/

namespace Sys2Proof.Machine

variable {s t : State}

/-! ### Reads and writes of the named locations -/

theorem setWidth_ofBool_getLsbD_zero (v : Nat) :
    (BitVec.ofBool ((BitVec.ofNat 1 v).getLsbD 0)).setWidth 8 = BitVec.ofNat 8 (v % 2) := by
  rw [BitVec.getLsbD_ofNat, Nat.testBit_zero]
  obtain h | h := Nat.mod_two_eq_zero_or_one v <;> rw [h] <;> rfl

/-- A location of RAM or of a device register reads back the value written, reduced to its width (R41). -/
theorem peek_memWrite_self {l : Loc} (hlatch : s.adcLatch = none) (hrom : ∀ i, l ≠ .gamma i) (v : Nat) :
    peek l (memWrite l v s) = BitVec.ofNat 8 (v % 2 ^ l.width) := by
  have hbyte : BitVec.ofNat 8 v = BitVec.ofNat 8 (v % 2 ^ 8) := by
    apply BitVec.eq_of_toNat_eq
    simp
  cases l with
  | buf i =>
    rw [memWrite, peek_buf, writeBuf_buf, Loc.width, ← hbyte]
    simp
  | port p => rw [memWrite, peek_port, writePort_ports, Ports.get_set_self, Loc.width, ← hbyte]
  | adcL => exact hbyte
  | adcH =>
    rw [memWrite, peek_adcH, hlatch]
    exact hbyte
  | btn => exact setWidth_ofBool_getLsbD_zero v
  | trig =>
    rw [memWrite, peek_trig]
    apply BitVec.eq_of_toNat_eq
    simp [Loc.width]
  | gamma i => exact absurd rfl (hrom i)

/-- Two states agree on a location when they agree on what stands behind it. -/
theorem peek_congr_at {l : Loc} (hbuf : ∀ i, l = .buf i → t.buf[i] = s.buf[i])
    (hport : ∀ p, l = .port p → t.ports.get p = s.ports.get p) (hL : l = .adcL → t.adcL = s.adcL)
    (hH : l = .adcH → t.adcLatch.getD t.adcH = s.adcLatch.getD s.adcH) (hbtn : l = .btn → t.btnN = s.btnN)
    (htrig : l = .trig → t.adcTrig = s.adcTrig) : peek l t = peek l s := by
  cases l with
  | buf i => exact hbuf i rfl
  | port p => exact hport p rfl
  | adcL => exact hL rfl
  | adcH => exact hH rfl
  | btn => rw [peek_btn, peek_btn, hbtn rfl]
  | trig => rw [peek_trig, peek_trig, htrig rfl]
  | gamma i => rfl

/-- A write leaves every other location (R41). -/
theorem peek_memWrite_of_ne {l m : Loc} (hne : m ≠ l) (v : Nat) : peek m (memWrite l v s) = peek m s := by
  cases l with
  | buf i =>
    refine peek_congr_at (fun j hm => ?_) (fun _ _ => rfl) (fun _ => rfl) (fun _ => rfl) (fun _ => rfl) fun _ => rfl
    have hij : (i : Nat) ≠ j := fun h => hne (hm.trans (congrArg Loc.buf (Fin.ext h.symm)))
    simp [memWrite, hij]
  | port p =>
    refine peek_congr_at (fun _ _ => rfl) (fun q hm => ?_) (fun _ => rfl) (fun _ => rfl) (fun _ => rfl) fun _ => rfl
    exact Ports.get_set_ne s.ports _ fun h => hne (hm.trans (congrArg Loc.port h))
  | adcL =>
    exact peek_congr_at (fun _ _ => rfl) (fun _ _ => rfl) (fun h => absurd h hne) (fun _ => rfl) (fun _ => rfl) fun _ => rfl
  | adcH =>
    exact peek_congr_at (fun _ _ => rfl) (fun _ _ => rfl) (fun _ => rfl) (fun h => absurd h hne) (fun _ => rfl) fun _ => rfl
  | btn =>
    exact peek_congr_at (fun _ _ => rfl) (fun _ _ => rfl) (fun _ => rfl) (fun _ => rfl) (fun h => absurd h hne) fun _ => rfl
  | trig =>
    exact peek_congr_at (fun _ _ => rfl) (fun _ _ => rfl) (fun _ => rfl) (fun _ => rfl) (fun _ => rfl) fun h => absurd h hne
  | gamma i => rfl

theorem memWrite_memWrite (l : Loc) (v : Nat) (s : State) : memWrite l v (memWrite l v s) = memWrite l v s := by
  cases l with
  | buf i => simp [memWrite, writeBuf]
  | port p => cases p <;> rfl
  | adcL | adcH | btn | trig | gamma i => rfl

/-- Settles O44: `peek_memWrite_self`, `peek_memWrite_of_ne` and `memWrite_memWrite`. -/
theorem locationsReadBackWhatWasWritten : Obligations.LocationsReadBackWhatWasWritten :=
  ⟨fun _ _ v hlatch hrom => peek_memWrite_self hlatch hrom v, fun _ _ _ v hne => peek_memWrite_of_ne hne v,
    fun s l v => memWrite_memWrite l v s⟩

/-- Only the converter's registers have a read with a side effect (20_memory.md R46). -/
theorem memRead_state {l : Loc} (hL : l ≠ .adcL) (hH : l ≠ .adcH) (s : State) : (memRead l s).2 = s := by
  cases l with
  | adcL => exact absurd rfl hL
  | adcH => exact absurd rfl hH
  | buf i | port p | btn | trig | gamma i => rfl

/-- Settles O45: the low-byte read has latched the high byte, so a later write to the register is not seen (log 9). -/
theorem sampleReadIsNotTorn : Obligations.SampleReadIsNotTorn :=
  ⟨fun s _ hL hH => memRead_state hL hH s, fun _ _ _ => rfl,
    fun s => ⟨by rw [readSample_eq, combine_toNat], congrArg Prod.snd (readSample_eq s)⟩⟩

/-! ### Who writes each register (10_state.md section 1) -/

/-- The control handler writes the buffer only in the mode Attract (43_control_handler.md R114). -/
theorem controlHandler_attract_of_buf_ne (h : (controlHandler s).buf ≠ s.buf) :
    effMode (controlHandler s).mode = .attract := by
  by_contra hmode
  exact h (controlHandler_buf_of_not_attract hmode)

/-- Settles O47: operation by operation, what is not written is as before, by the field laws of the handlers and updates. -/
theorem registersChangeOnlyByTheirWriters : Obligations.RegistersChangeOnlyByTheirWriters := by
  intro i s t h
  cases i with
  | isrc =>
    obtain ⟨-, rfl⟩ := dispatch_eq_next.mp h
    refine ⟨fun hbuf => .inr ⟨rfl, controlHandler_attract_of_buf_ne (s := clearPending .control s) hbuf⟩, ?_⟩
    simp [Pending.set]
  | isrr | isrs =>
    obtain ⟨-, rfl⟩ := dispatch_eq_next.mp h
    simp [Pending.set]
  | nop | rst | start | stop | tickc | tickr | adcdone v | btn level | pinwr p v =>
    cases h
    simp [Pending.set]

/-- The sample handler leaves the converter's latch empty (log 9). -/
theorem sampleHandler_adcLatch_of_empty (h : s.adcLatch = none) : (sampleHandler s).adcLatch = none := by
  obtain ⟨_, _, e⟩ | ⟨_, e⟩ := sampleHandler_cases s
  · rw [e]
  · rw [e, h]

/-! ### The frame over the named locations (20_memory.md R40) -/

/-- Settles O46: for each operation, what stands behind a location it does not store to is as before. For `ISRS` and `ADC.H`
this takes the empty latch, which the handler leaves empty. -/
theorem locationsOutsideTheStoresKeepTheirValue : Obligations.LocationsOutsideTheStoresKeepTheirValue := by
  intro i s t hlatch h l hl
  cases i with
  | nop | start | stop | tickc | tickr => cases h; exact peek_congr l rfl rfl rfl rfl rfl rfl rfl
  | rst =>
    cases h
    exact peek_congr_at (fun i hi => by simp [storesTo, hi, Loc.inBuf] at hl)
      (fun p hp => by simp [storesTo, hp, Loc.inPorts] at hl) (fun _ => rfl) (fun _ => rfl) (fun _ => rfl)
      fun htrig => by simp [storesTo, htrig] at hl
  | adcdone v =>
    cases h
    exact peek_congr_at (fun _ _ => rfl) (fun _ _ => rfl) (fun hL => by simp [storesTo, hL] at hl)
      (fun hH => by simp [storesTo, hH] at hl) (fun _ => rfl) fun _ => rfl
  | btn level =>
    cases h
    have hbtn : l ≠ .btn := by simpa [storesTo] using hl
    exact peek_congr_at (fun _ _ => rfl) (fun _ _ => rfl) (fun _ => rfl) (fun _ => rfl) (fun h => absurd h hbtn) fun _ => rfl
  | pinwr p v =>
    cases h
    have hport : l ≠ .port p := by simpa [storesTo] using hl
    refine peek_congr_at (fun _ _ => rfl) (fun q hq => ?_) (fun _ => rfl) (fun _ => rfl) (fun _ => rfl) fun _ => rfl
    exact Ports.get_set_ne s.ports _ fun hqp => hport (hq.trans (congrArg Loc.port hqp))
  | isrc =>
    obtain ⟨-, rfl⟩ := dispatch_eq_next.mp h
    refine peek_congr_at (fun i hi => ?_) (by simp) (by simp) (by simp) (by simp) fun htrig => ?_
    · have hmode : modeAfterButton s ≠ .attract := by simpa [storesTo, hi, Loc.inBuf] using hl
      simp [hmode]
    · have hpress : qualifiedPress s = false := by simpa [storesTo, htrig, Loc.inBuf] using hl
      simp [hpress]
  | isrr =>
    obtain ⟨-, rfl⟩ := dispatch_eq_next.mp h
    refine peek_congr_at (by simp) (fun p hp => ?_) (by simp) (by simp) (by simp) (by simp)
    have hdrives : drivesPorts s = false := by simpa [storesTo, hp, Loc.inPorts] using hl
    simp [hdrives]
  | isrs =>
    obtain ⟨-, rfl⟩ := dispatch_eq_next.mp h
    refine peek_congr_at (by simp) (fun p hp => ?_) (by simp) (fun _ => ?_) (by simp) (by simp)
    · have hattract : effMode s.mode = .attract := by simpa [storesTo, hp, Loc.inPorts] using hl
      rw [sampleHandler_of_attract (s := clearPending .sample s) hattract, clearPending_ports]
    · rw [sampleHandler_adcLatch_of_empty (s := clearPending .sample s) hlatch, hlatch, sampleHandler_adcH,
        clearPending_adcH]

/-! ### What a dispatch leaves (60_exceptions.md section 3) -/

@[simp] theorem handlerOf_btnN (src : Source) (s : State) : (handlerOf src s).btnN = s.btnN := by
  cases src <;> simp [handlerOf]

@[simp] theorem handlerOf_adcL (src : Source) (s : State) : (handlerOf src s).adcL = s.adcL := by
  cases src <;> simp [handlerOf]

@[simp] theorem handlerOf_adcH (src : Source) (s : State) : (handlerOf src s).adcH = s.adcH := by
  cases src <;> simp [handlerOf]

/-- Settles O16: the dispatch clears its own flag, and no handler writes a flag or one of these fields. -/
theorem dispatchClearsOnlyItsOwnFlag : Obligations.DispatchClearsOnlyItsOwnFlag := by
  intro s src hgie hpend
  refine ⟨_, exec_handler_of_enabled ((enabled_iff s src).mpr ⟨hgie, hpend⟩), ?_, fun other hne => ?_, ?_⟩
  · rw [handlerOf_pend, clearPending_pend, Pending.get_set_self]
  · rw [handlerOf_pend, clearPending_pend, Pending.get_set_ne s.pend false hne]
  · simp [hgie]

end Sys2Proof.Machine
end

section
/-! The step machine: what a step performs and when it is refused (30_encoding.md R60, R63; 60_exceptions.md R167, R169),
and a run of a schedule as its operations in order. -/

namespace Sys2Proof.Machine

variable {s t : State}

/-! ### One step -/

theorem step_of_legal {w : Word} {rest : List Word} {i : Instr} (hc : configOk s.cfg = true) (hs : s.schedule = w :: rest)
    (hd : decode w = .ok i) : step s = exec i { s with schedule := rest } :=
  step_of_perform (nextOp_legal hc hs hd)

/-- The next step performs the operation whose word is put before the schedule. -/
theorem step_pushWord_encode (hc : configOk s.cfg = true) (i : Instr) : step (pushWord (encode i) s) = exec i s :=
  step_of_legal (s := pushWord (encode i) s) hc rfl (decode_encode i)

/-- `withFetchWord` on an operation's word puts the word before the schedule and selects the handler (log 1, 2). -/
theorem withFetchWord_encode (s : State) (i : Instr) :
    s.withFetchWord 24 (encode i).toNat = pushWord (encode i) (selectHandler i s) := by
  have hword : BitVec.ofNat 24 ((encode i).toNat % 2 ^ 24) = encode i := by
    rw [Nat.mod_eq_of_lt (encode i).isLt, BitVec.ofNat_toNat, BitVec.setWidth_eq]
  rw [State.withFetchWord, hword, placeWord, decode_encode]

/-- Settles O48: the head of the schedule is fetched (`step_of_legal`); `withFetchWord` puts a word there. -/
theorem stepPerformsTheDecodedOperation : Obligations.StepPerformsTheDecodedOperation := by
  refine ⟨fun s w rest i hc hs hd => step_of_legal hc hs hd, fun s i hc henv => ?_, fun s src hc => ?_⟩
  · rw [withFetchWord_encode, selectHandler_env s henv, step_pushWord_encode hc]
  · have hselect : selectHandler src.handler s = { s with gie := true, pend := s.pend.set src true } := by
      cases src <;> rfl
    rw [withFetchWord_encode, hselect]
    exact step_pushWord_encode (s := { s with gie := true, pend := s.pend.set src true }) hc src.handler

theorem exec_handler_of_not_enabled {src : Source} (h : ¬ (s.gie = true ∧ s.pend.get src = true)) :
    exec src.handler s = .refused (.notEnabled src) := by
  obtain ⟨he, -⟩ | ⟨-, hrefused⟩ := exec_handler_cases s src
  · exact absurd ((enabled_iff s src).mp he) h
  · exact hrefused

theorem exec_eq_refused {i : Instr} {r : Refusal} : exec i s = .refused r ↔
    ∃ src, i = Source.handler src ∧ ¬ (s.gie = true ∧ s.pend.get src = true) ∧ r = .notEnabled src := by
  constructor
  · intro h
    obtain ⟨src, hi, hoff, hr⟩ := exec_refused_cases h
    exact ⟨src, hi, by rw [← enabled_iff, hoff]; decide, hr⟩
  · rintro ⟨src, rfl, hoff, rfl⟩
    exact exec_handler_of_not_enabled hoff

/-- With the schedule exhausted the dispatcher takes an enabled handler, which then has a step (R167, R169). -/
theorem step_of_owed (hc : configOk s.cfg = true) (hs : s.schedule = []) (hgie : s.gie = true)
    (hpend : ∃ src, s.pend.get src = true) : ∃ src t, s.pend.get src = true ∧
      step s = exec (Source.handler src) { s with draws := s.draws + 1 } ∧ step s = .next t := by
  obtain ⟨owed, howed⟩ := hpend
  have hne : enabledSources s ≠ [] :=
    List.ne_nil_of_mem ((mem_enabledSources s owed).mpr ((enabled_iff s owed).mpr ⟨hgie, howed⟩))
  obtain ⟨src, hen, hnext⟩ := nextOp_owed hc hs hne
  have hstep := step_of_perform hnext
  have hexec := exec_handler_of_enabled (s := { s with draws := s.draws + 1 }) (src := src) hen
  exact ⟨src, _, ((enabled_iff s src).mp hen).2, hstep, hstep.trans hexec⟩

/-- With the schedule exhausted and no handler enabled the machine idles. -/
theorem step_of_none_owed (hc : configOk s.cfg = true) (hs : s.schedule = [])
    (h : ¬ (s.gie = true ∧ ∃ src, s.pend.get src = true)) : step s = .next s := by
  have hnil : enabledSources s = [] := by
    refine List.eq_nil_iff_forall_not_mem.mpr fun src hmem => h ?_
    obtain ⟨hgie, hpend⟩ := (enabled_iff s src).mp ((mem_enabledSources s src).mp hmem)
    exact ⟨hgie, src, hpend⟩
  exact step_of_idle (nextOp_idle hc hs hnil)

/-- Settles O50: `step_of_owed` and `step_of_none_owed`. -/
theorem dispatcherTakesAnEnabledHandler : Obligations.DispatcherTakesAnEnabledHandler :=
  fun _ hc hs => ⟨fun ⟨hgie, hpend⟩ => step_of_owed hc hs hgie hpend, step_of_none_owed hc hs⟩

/-- With the schedule exhausted no step is refused. -/
theorem step_ne_refused_of_exhausted (hc : configOk s.cfg = true) (hs : s.schedule = []) (r : Refusal) :
    step s ≠ .refused r := by
  by_cases howed : s.gie = true ∧ ∃ src, s.pend.get src = true
  · obtain ⟨_, t, -, -, hnext⟩ := step_of_owed hc hs howed.1 howed.2
    rw [hnext]
    nofun
  · rw [step_of_none_owed hc hs howed]
    nofun

/-- A step with a word to fetch is refused for the word, or as its operation is. -/
theorem step_eq_refused_of_cons {w : Word} {rest : List Word} (hc : configOk s.cfg = true) (hs : s.schedule = w :: rest)
    {r : Refusal} : step s = .refused r ↔ ((∃ e, decode w = .error e) ∧ r = .illegalWord w) ∨
      ∃ src, decode w = .ok (Source.handler src) ∧ ¬ (s.gie = true ∧ s.pend.get src = true) ∧ r = .notEnabled src := by
  cases hd : decode w with
  | error e =>
    rw [step_of_refuse (nextOp_illegal hc hs hd), Host.Outcome.refused.injEq, eq_comm]
    simp
  | ok i =>
    rw [step_of_legal hc hs hd, exec_eq_refused]
    simp

/-- Settles O49: the three reasons are those of the configuration, of the word fetched (`step_eq_refused_of_cons`), and none
with the schedule exhausted. -/
theorem stepIsRefusedExactlyForThreeReasons : Obligations.StepIsRefusedExactlyForThreeReasons := by
  refine ⟨fun s i r => exec_eq_refused, fun s r => ?_⟩
  cases hc : configOk s.cfg with
  | false =>
    rw [step_of_refuse (nextOp_badConfig hc), Host.Outcome.refused.injEq, eq_comm]
    simp
  | true =>
    cases hs : s.schedule with
    | nil => simp [step_ne_refused_of_exhausted hc hs r]
    | cons w rest =>
      rw [step_eq_refused_of_cons hc hs]
      simp

/-! ### Placing a schedule (46_environment_ops.md R149) -/

theorem legalWord_iff (w : Word) : legalWord w = true ↔ ∃ i, decode w = .ok i := by
  unfold legalWord
  cases decode w <;> simp

theorem legalWord_eq_false_iff (w : Word) : legalWord w = false ↔ ∃ e, decode w = .error e := by
  unfold legalWord
  cases decode w <;> simp

theorem firstIllegal_eq_none_iff (ws : List Word) : firstIllegal ws = none ↔ ∀ w ∈ ws, ∃ i, decode w = .ok i := by
  simp [firstIllegal, legalWord_iff]

/-- Settles O56: the first illegal word of a schedule is what `placeSchedule` looks for. -/
theorem illegalWordsAreRefused : Obligations.IllegalWordsAreRefused := by
  refine ⟨fun ws s hillegal => ?refused, fun ws s hlegal => ?placed, fun s w rest e hc hs hd => ?atStep⟩
  case refused =>
    obtain ⟨w, hw, hbad⟩ := hillegal
    have hfind : (firstIllegal ws).isSome :=
      List.find?_isSome.mpr ⟨w, hw, by rw [(legalWord_eq_false_iff w).mpr hbad]; rfl⟩
    obtain ⟨v, hv⟩ := Option.isSome_iff_exists.mp hfind
    have hvbad := List.find?_some hv
    refine ⟨v, List.mem_of_find?_eq_some hv, (legalWord_eq_false_iff v).mp (by simpa using hvbad), ?_⟩
    rw [placeSchedule, hv]
  case placed => rw [placeSchedule, (firstIllegal_eq_none_iff ws).mpr hlegal]
  case atStep => exact step_of_refuse (nextOp_illegal hc hs hd)

/-! ### A run of a schedule (30_encoding.md section 1) -/

/-- A handler neither reads nor writes the model's own schedule (log 1). -/
theorem handlerOf_update_schedule (src : Source) (ws : List Word) (s : State) :
    handlerOf src { s with schedule := ws } = { handlerOf src s with schedule := ws } := by
  have hpress : qualifiedPress { s with schedule := ws } = qualifiedPress s := rfl
  have hmode : modeAfterButton { s with schedule := ws } = modeAfterButton s := rfl
  have hdrives : drivesPorts { s with schedule := ws } = drivesPorts s := rfl
  cases src with
  | control => apply State.ext <;> simp [handlerOf, hpress, hmode]
  | refresh => apply State.ext <;> simp [handlerOf, hdrives]
  | sample =>
    rw [handlerOf]
    obtain ⟨shift, hshift, e⟩ | ⟨hattract, e⟩ := sampleHandler_cases s
    · rw [e, sampleHandler_of_shift (s := { s with schedule := ws }) hshift]
    · rw [e, sampleHandler_of_attract (s := { s with schedule := ws }) hattract]

theorem exec_handler_update_schedule {src : Source} (h : exec src.handler s = .next t) (ws : List Word) :
    exec src.handler { s with schedule := ws } = .next { t with schedule := ws } := by
  rw [exec_handler, dispatch_eq_next] at h ⊢
  obtain ⟨hen, rfl⟩ := h
  exact ⟨hen, handlerOf_update_schedule src ws (clearPending src s)⟩

/-- An operation does the same whatever is scheduled after it (log 1). -/
theorem exec_update_schedule {i : Instr} (h : exec i s = .next t) (ws : List Word) :
    exec i { s with schedule := ws } = .next { t with schedule := ws } := by
  cases i with
  | isrc => exact exec_handler_update_schedule (src := .control) h ws
  | isrr => exact exec_handler_update_schedule (src := .refresh) h ws
  | isrs => exact exec_handler_update_schedule (src := .sample) h ws
  | nop | rst | start | stop | tickc | tickr | adcdone v | btn level | pinwr p v => cases h; rfl

theorem exec_refused_update_schedule {i : Instr} {r : Refusal} (h : exec i s = .refused r) (ws : List Word) :
    exec i { s with schedule := ws } = .refused r := by
  obtain ⟨src, hi, hoff, hr⟩ := exec_eq_refused.mp h
  exact exec_eq_refused.mpr ⟨src, hi, hoff, hr⟩

/-- A machine's run goes on from the state its first step answers. -/
theorem run_succ_of_next {M : Host.Core} {s t : M.State} (n : Nat) (h : M.step s = .next t) :
    M.run (n + 1) s = M.run n t := by
  rw [Host.Core.run, h]

theorem run_succ_of_refused {M : Host.Core} {s : M.State} {r : M.Refusal} (n : Nat) (h : M.step s = .refused r) :
    M.run (n + 1) s = .refused r := by
  rw [Host.Core.run, h]

theorem performAll_cons_of_refused {i : Instr} {r : Refusal} (ops : List Instr) (h : exec i s = .refused r) :
    performAll (i :: ops) s = .refused r := by
  simp only [performAll, h]

/-- Settles O55, by induction on the operations: each step fetches one word and does what its operation does whatever is
left of the schedule. -/
theorem runningAScheduleIsPerformingItsOperations : Obligations.RunningAScheduleIsPerformingItsOperations := by
  intro ops rest
  induction ops with
  | nil => intro s _; rfl
  | cons i ops ih =>
    intro s hc
    have hstep : step { s with schedule := encode i :: (ops.map encode ++ rest) } =
        exec i { s with schedule := ops.map encode ++ rest } :=
      step_pushWord_encode (s := { s with schedule := ops.map encode ++ rest }) hc i
    cases hi : exec i s with
    | next t =>
      have hrun := run_succ_of_next (M := core) ops.length (hstep.trans (exec_update_schedule hi _))
      have hrest := ih t (by rw [exec_cfg hi]; exact hc)
      exact (hrun.trans hrest).trans (performAll_cons_of_next ops (exec_update_schedule hi rest)).symm
    | fault r => cases r
    | refused r =>
      have hrun := run_succ_of_refused (M := core) ops.length (hstep.trans (exec_refused_update_schedule hi _))
      exact hrun.trans (performAll_cons_of_refused ops (exec_refused_update_schedule hi rest)).symm

end Sys2Proof.Machine
end

section
/-! The registers' invariant of 10_state.md section 3: it holds after power-up, with the values of the reset table
(70_reset_and_hazards.md R186), and every step keeps it. -/

namespace Sys2Proof.Machine

variable {s t : State}

/-- The invariant speaks of seven fields only. -/
theorem RegistersOk.congr (h : RegistersOk s) (hmode : t.mode = s.mode) (htrig : t.adcTrig = s.adcTrig)
    (hdebounce : t.debounce = s.debounce) (hslice : t.slice = s.slice) (hphase : t.phase = s.phase) (hcfg : t.cfg = s.cfg)
    (hlatch : t.adcLatch = s.adcLatch) : RegistersOk t where
  mode_legal := hmode ▸ h.mode_legal
  trig_follows_mode := by rw [hmode, htrig, h.trig_follows_mode]
  debounce_le := hdebounce ▸ h.debounce_le
  slice_multiple := hslice ▸ h.slice_multiple
  phase_lt := by rw [hphase, hcfg]; exact h.phase_lt
  latch_empty := hlatch ▸ h.latch_empty

/-- The invariant after power-up and after `RST`: the boot mode with its trigger, the counters at 0. -/
theorem registersOk_of_boot {m : Mode} (hmode : s.mode = modeCode m) (htrig : s.adcTrig = trigCode (trigOf m))
    (hdebounce : s.debounce = 0#8) (hslice : s.slice = 0#8) (hphase : s.phase = 0#16) (hlatch : s.adcLatch = none) :
    RegistersOk s where
  mode_legal := hmode ▸ modeCode_ne_three m
  trig_follows_mode := by rw [hmode, htrig, effMode_modeCode]
  debounce_le := hdebounce ▸ Nat.zero_le 16
  slice_multiple := hslice ▸ rfl
  phase_lt := hphase ▸ Nat.two_pow_pos _
  latch_empty := hlatch

/-- The control handler keeps the invariant: a transition writes mode and trigger together, the counter never passes its
window, and the phase is reduced modulo the track. -/
theorem controlHandler_registersOk (h : RegistersOk s) : RegistersOk (controlHandler s) where
  mode_legal := by
    cases hq : qualifiedPress s with
    | true => simpa [hq] using modeCode_ne_three (nextMode (effMode s.mode))
    | false => simpa [hq] using h.mode_legal
  trig_follows_mode := by
    cases hq : qualifiedPress s with
    | true => simp [hq]
    | false => simpa [hq] using h.trig_follows_mode
  debounce_le := controlHandler_debounce_le h.debounce_le
  slice_multiple := by rw [controlHandler_slice]; exact h.slice_multiple
  phase_lt := by
    rw [controlHandler_phase, controlHandler_cfg, BitVec.toNat_ofNat]
    exact (Nat.mod_le _ _).trans_lt (Nat.mod_lt _ (Nat.two_pow_pos _))
  latch_empty := by rw [controlHandler_adcLatch, h.latch_empty]

theorem refreshHandler_registersOk (h : RegistersOk s) : RegistersOk (refreshHandler s) where
  mode_legal := by rw [refreshHandler_mode]; exact h.mode_legal
  trig_follows_mode := by rw [refreshHandler_adcTrig, refreshHandler_mode, h.trig_follows_mode]
  debounce_le := by rw [refreshHandler_debounce]; exact h.debounce_le
  slice_multiple := by
    have hs := h.slice_multiple
    rw [refreshHandler_slice_toNat]
    omega
  phase_lt := by rw [refreshHandler_phase, refreshHandler_cfg]; exact h.phase_lt
  latch_empty := by rw [refreshHandler_adcLatch, h.latch_empty]

/-- The sample handler writes the ports and the latch, which it leaves empty. -/
theorem sampleHandler_registersOk (h : RegistersOk s) : RegistersOk (sampleHandler s) :=
  h.congr (sampleHandler_mode s) (sampleHandler_adcTrig s) (sampleHandler_debounce s) (sampleHandler_slice s)
    (sampleHandler_phase s) (sampleHandler_cfg s)
    ((sampleHandler_adcLatch_of_empty h.latch_empty).trans h.latch_empty.symm)

theorem exec_registersOk {i : Instr} (hexec : exec i s = .next t) (h : RegistersOk s) : RegistersOk t := by
  have hclear (src : Source) : RegistersOk (clearPending src s) := h.congr rfl rfl rfl rfl rfl rfl rfl
  cases i with
  | isrc =>
    obtain ⟨-, rfl⟩ := dispatch_eq_next.mp hexec
    exact controlHandler_registersOk (hclear .control)
  | isrr =>
    obtain ⟨-, rfl⟩ := dispatch_eq_next.mp hexec
    exact refreshHandler_registersOk (hclear .refresh)
  | isrs =>
    obtain ⟨-, rfl⟩ := dispatch_eq_next.mp hexec
    exact sampleHandler_registersOk (hclear .sample)
  | rst => cases hexec; exact registersOk_of_boot rfl rfl rfl rfl rfl h.latch_empty
  | nop | start | stop | tickc | tickr | adcdone v | btn level | pinwr p v =>
    cases hexec
    exact h.congr rfl rfl rfl rfl rfl rfl rfl

/-- Settles O51: a step idles or performs an operation, and each operation keeps the invariant (`exec_registersOk`). -/
theorem stepKeepsRegistersOk : Obligations.StepKeepsRegistersOk := by
  intro s t h hstep
  obtain ⟨i, rest, draws, hexec⟩ | rfl := step_next_cases hstep
  · exact exec_registersOk hexec (h.congr rfl rfl rfl rfl rfl rfl rfl)
  · exact h

theorem powerUp_registersOk (c : Config) : RegistersOk (State.powerUp c) :=
  registersOk_of_boot (m := c.bootMode) rfl rfl rfl rfl rfl rfl

/-- Settles O52: power-up is a boot (`registersOk_of_boot`), and reset is power-up with the defaults. -/
theorem powerUpHasRegistersOk : Obligations.PowerUpHasRegistersOk :=
  ⟨powerUp_registersOk, powerUp_registersOk defaultConfig⟩

/-- At power-up a port register holds its mask. -/
theorem powerUp_ports_get (c : Config) (p : Port) : (State.powerUp c).ports.get p = portMask c.pinTable p := by
  cases p <;> rfl

/-- Settles O53: the ports hold the masks, so every display bit is set; mode and trigger are the boot mode's. -/
theorem powerUpValues : Obligations.PowerUpValues := by
  rintro c s rfl
  refine ⟨rfl, effMode_modeCode c.bootMode, modeCode_ne_three c.bootMode, trigMeaning_trigCode (trigOf c.bootMode), rfl, rfl,
    rfl, fun p n hdisplay => ?_, rfl, rfl, rfl⟩
  rw [powerUp_ports_get, portMask_getLsbD]
  exact hdisplay

end Sys2Proof.Machine
end

section
/-! The bit-pattern encoder of 40_encoder.md: the laws of preservation and of the last pattern, and the bit equations for
the board's pins. -/

namespace Sys2Proof.Machine

/-- A masked update keeps what is outside the mask (20_memory.md R45). -/
theorem maskedUpdate_and_not (mask old new : Byte) : maskedUpdate mask old new &&& ~~~mask = old &&& ~~~mask := by
  ext j hj
  simp only [maskedUpdate, BitVec.getElem_and, BitVec.getElem_or, BitVec.getElem_not]
  cases mask[j] <;> simp

/-- The encoder keeps the foreign bits (40_encoder.md R84). -/
theorem encodePorts_and_not_portMask (t : Vector Pin 16) (P : Pattern) (ps : Ports) (p : Port) :
    (encodePorts t P ps).get p &&& ~~~portMask t p = ps.get p &&& ~~~portMask t p := by
  rw [encodePorts_get, maskedUpdate_and_not]

/-- The last pattern wins (40_encoder.md R81). -/
theorem encodePorts_encodePorts (t : Vector Pin 16) (P Q : Pattern) (ps : Ports) :
    encodePorts t Q (encodePorts t P ps) = encodePorts t Q ps :=
  encodePorts_congr Q (encodePorts_and_not_portMask t P ps)

/-- The example of 40_encoder.md section "Laws": all LEDs dark over foreign bits that are set. -/
theorem encodePorts_board_dark :
    encodePorts boardPinTable 0x0000#16 ⟨0xA8#8, 0x41#8, 0x01#8, 0x50#8⟩ = ⟨0xAB#8, 0x7D#8, 0xFD#8, 0x5F#8⟩ := by decide

/-- Settles O21: the encoder keeps the foreign bits, and they are all that it sees of the old ports
(`encodePorts_congr`). -/
theorem encoderKeepsForeignBitsAndLastPatternWins : Obligations.EncoderKeepsForeignBitsAndLastPatternWins :=
  ⟨encodePorts_and_not_portMask, encodePorts_encodePorts, encodePorts_board_dark⟩

/-- No two LEDs share a pin in a configuration that 00_scope.md R6 allows. -/
theorem pinTableInjective_of_configOk {c : Config} (h : configOk c = true) : pinTableInjective c.pinTable = true := by
  rw [configOk, Bool.and_eq_true] at h
  exact h.2

/-! ### The bit equations for the board's pin table (40_encoder.md R81) -/

/-- The LED on a pin, if there is one. -/
def ledOn (t : Vector Pin 16) (p : Port) (n : Fin 8) : Option (Fin 16) :=
  (List.finRange 16).find? fun i => t[i] = ⟨p, n⟩

/-- Every bit of a port after the encoder: the inverted pattern bit of the LED on it, or the old bit. -/
theorem encodePorts_getLsbD {t : Vector Pin 16} (ht : pinTableInjective t = true) (P : Pattern) (ps : Ports) (p : Port)
    (n : Fin 8) : ((encodePorts t P ps).get p).getLsbD n =
      match ledOn t p n with
      | some i => !P.getLsbD i
      | none => (ps.get p).getLsbD n := by
  cases hled : ledOn t p n with
  | some i =>
    have hpin : t[i] = ⟨p, n⟩ := by simpa using List.find?_some hled
    have hbit := encodePorts_display t ht P ps i
    rwa [hpin] at hbit
  | none =>
    have hforeign : ¬ IsDisplayBit t p n := by
      rintro ⟨i, hi⟩
      simpa [hi] using List.find?_eq_none.mp hled i (List.mem_finRange i)
    exact encodePorts_foreign t P ps p n hforeign

theorem boardPinTable_injective : pinTableInjective boardPinTable = true := by decide

/-- The LEDs by port and bit, which is the board's pin table turned round (10_state.md section 6). -/
def boardLeds : Port → Fin 8 → Option (Fin 16)
  | .b => ![some 8, some 7, none, none, none, none, none, none]
  | .c => ![none, none, some 4, some 3, some 2, some 1, none, none]
  | .d => ![none, none, some 0, some 15, some 14, some 11, some 10, some 9]
  | .e => ![some 13, some 12, some 6, some 5, none, none, none, none]

theorem ledOn_board (p : Port) (n : Fin 8) : ledOn boardPinTable p n = boardLeds p n := by
  cases p <;> revert n <;> decide

/-- Settles O19: bit by bit, with the LED on each bit (`encodePorts_getLsbD`); the masks of the equations are the bits
without one. -/
theorem encoderPortEquations : Obligations.EncoderPortEquations := by
  intro P b c d e inv
  refine Ports.ext_get fun p => BitVec.eq_of_getLsbD_eq fun n hn => ?_
  refine (encodePorts_getLsbD boardPinTable_injective P ⟨b, c, d, e⟩ p ⟨n, hn⟩).trans ?_
  rw [ledOn_board]
  cases p <;> interval_cases n <;> simp [boardLeds, Ports.get, inv]

end Sys2Proof.Machine
end

section
/-! The attract pulse of 43_control_handler.md: its shape around an LED (section "Laws"). -/

namespace Sys2Proof.Machine

/-- The distance of an LED from the phase that stands `x` behind it: the shorter way round the track. -/
theorem attractDistance_at_offset {bits : Nat} (hbits : 12 ≤ bits) (i : Fin 16) {x : Nat} (hx : x < 2 ^ bits) :
    attractDistance bits i ((256 * i.val + x) % 2 ^ bits) = min x (2 ^ bits - x) := by
  have hlen : 2 ^ 12 ≤ 2 ^ bits := Nat.pow_le_pow_right Nat.two_pos hbits
  have hph := Nat.mod_lt (256 * i.val + x) (Nat.two_pow_pos bits)
  rw [attractDistance_eq hbits i hph]
  generalize 2 ^ bits = len at *
  have hway : (256 * i.val + len - (256 * i.val + x) % len) % len = (len - x) % len := by
    obtain hlt | hge := Nat.lt_or_ge (256 * i.val + x) len
    · rw [Nat.mod_eq_of_lt hlt, Nat.add_sub_add_left]
    · have hwrap : (256 * i.val + x) % len = 256 * i.val + x - len := by
        rw [Nat.mod_eq_sub_mod hge, Nat.mod_eq_of_lt (by omega)]
      have hturn : 256 * i.val + len - (256 * i.val + x - len) = len - x + len := by omega
      rw [hwrap, hturn, Nat.add_mod_right]
  rw [hway]
  obtain rfl | hpos := Nat.eq_zero_or_pos x
  · simp
  · rw [Nat.mod_eq_of_lt (by omega)]
    omega

/-- The level at that phase (43_control_handler.md R113). -/
theorem attractLevel_at_offset {bits : Nat} (hbits : 12 ≤ bits) (i : Fin 16) {x : Nat} (hx : x < 2 ^ bits) :
    (attractLevel bits i ((256 * i.val + x) % 2 ^ bits)).toNat = 255 - min x (2 ^ bits - x) := by
  rw [attractLevel_toNat, attractDistance_at_offset hbits i hx]

/-- Equal distances on both sides of an LED (43_control_handler.md section "Laws"). -/
theorem attractLevel_symmetric {bits : Nat} (hbits : 12 ≤ bits) (i : Fin 16) {x : Nat} (hx : x < 2 ^ bits) :
    attractLevel bits i ((256 * i.val + x) % 2 ^ bits) =
      attractLevel bits i ((256 * i.val + 2 ^ bits - x) % 2 ^ bits) := by
  obtain rfl | hpos := Nat.eq_zero_or_pos x
  · rw [Nat.add_zero, Nat.sub_zero, Nat.add_mod_right]
  · have hother := attractLevel_at_offset hbits i (x := 2 ^ bits - x) (by omega)
    apply BitVec.eq_of_toNat_eq
    rw [attractLevel_at_offset hbits i hx, Nat.add_sub_assoc hx.le, hother]
    omega

/-- Settles O32: at `x` from an LED, up to half the track, the level is `255 - x` (`attractLevel_at_offset`). -/
theorem pulseIsSymmetricAndFalling : Obligations.PulseIsSymmetricAndFalling := by
  intro bits hbits _
  refine ⟨?atLed, fun i x hx => attractLevel_symmetric hbits i hx, fun i x y hxy hy => ?falling⟩
  case atLed =>
    have hlevel := attractLevel_at_offset hbits 0 (x := 0) (Nat.two_pow_pos bits)
    exact BitVec.eq_of_toNat_eq (by simpa using hlevel)
  case falling =>
    have hhalf : 2 ^ bits = 2 * 2 ^ (bits - 1) := (mul_pow_sub_one (by omega) 2).symm
    have hx := attractLevel_at_offset hbits i (x := x) (by omega)
    have hy := attractLevel_at_offset hbits i (x := y) (by omega)
    refine ⟨by omega, fun hlit => by omega, fun hdark => BitVec.eq_of_toNat_eq ?_⟩
    rw [hx, BitVec.toNat_ofNat]
    omega

end Sys2Proof.Machine
end

section
/-! Ticks: an event raised and served at once, one or many times over (the pseudo-operations of 30_encoding.md R64), and
the phase over many control ticks (43_control_handler.md R112). -/

namespace Sys2Proof.Machine

variable {s t : State} {src : Source} {ev : Instr}

/-- The next state when a source's event arrives and its handler step follows. -/
def tick (src : Source) (s : State) : State := handlerOf src (clearPending src (raiseEvent src s))

@[simp] theorem tick_gie (src : Source) (s : State) : (tick src s).gie = s.gie := by
  simp [tick]

@[simp] theorem tick_cfg (src : Source) (s : State) : (tick src s).cfg = s.cfg := by
  simp [tick]

/-- With preemption on, an event and its handler step are a tick. -/
theorem performAll_tick (hev : exec ev s = .next (raiseEvent src t)) (hgie : t.gie = true) :
    performAll [ev, src.handler] s = .next (tick src t) := by
  have hen : enabled (raiseEvent src t) src = true :=
    (enabled_iff _ src).mpr ⟨hgie, by rw [raiseEvent_pend, Pending.get_set_self]⟩
  rw [performAll_cons_of_next _ hev, performAll_singleton, exec_handler_of_enabled hen, tick]

/-- The handler step after an event needs preemption on. -/
theorem performAll_event_iff (hev : exec ev s = .next (raiseEvent src t)) :
    (∃ u, performAll [ev, src.handler] s = .next u) ↔ t.gie = true := by
  rw [performAll_cons_of_next _ hev, performAll_singleton, exists_exec_handler_iff_enabled, enabled_iff, raiseEvent_gie,
    raiseEvent_pend, Pending.get_set_self]
  simp

/-- Settles O57: an event always has a step, and its handler step has one iff preemption is on. -/
theorem pseudoOperationsNeedPreemption : Obligations.PseudoOperationsNeedPreemption :=
  ⟨fun _ => ⟨rfl, rfl, rfl, rfl, rfl⟩, fun s v => ⟨performAll_event_iff (src := .control) (exec_tickc s),
    performAll_event_iff (src := .refresh) (exec_tickr s),
    performAll_event_iff (src := .sample) (t := { s with adcH := highByte v, adcL := lowByte v }) (exec_adcdone v s)⟩⟩

/-! ### Several ticks -/

theorem performAll_append {ops₁ : List Instr} (ops₂ : List Instr) (h : performAll ops₁ s = .next t) :
    performAll (ops₁ ++ ops₂) s = performAll ops₂ t := by
  induction ops₁ generalizing s with
  | nil => cases h; rfl
  | cons i ops₁ ih =>
    obtain ⟨u, hi, hrun⟩ := performAll_cons_eq_next.mp h
    rw [List.cons_append, performAll_cons_of_next _ hi, ih hrun]

/-- Repeated ticks are the iterated tick. -/
theorem performAll_ticks (hev : ∀ s, exec ev s = .next (raiseEvent src s)) (n : Nat) (hgie : s.gie = true) :
    performAll (List.replicate n [ev, src.handler]).flatten s = .next ((tick src)^[n] s) := by
  induction n generalizing s with
  | zero => rfl
  | succ n ih =>
    rw [List.replicate_succ, List.flatten_cons, performAll_append _ (performAll_tick (hev s) hgie),
      ih ((tick_gie src s).trans hgie), Function.iterate_succ_apply]

theorem performAll_ctTimes (n : Nat) (hgie : s.gie = true) :
    performAll (Pseudo.expand (.ctTimes n)) s = .next ((tick .control)^[n] s) :=
  performAll_ticks (src := .control) exec_tickc n hgie

theorem performAll_rtTimes (n : Nat) (hgie : s.gie = true) :
    performAll (Pseudo.expand (.rtTimes n)) s = .next ((tick .refresh)^[n] s) :=
  performAll_ticks (src := .refresh) exec_tickr n hgie

/-- What every tick keeps, any number of ticks keep. -/
theorem iterate_tick_keeps {α : Type} {f : State → α} (hf : ∀ s, f (tick src s) = f s) (n : Nat) (s : State) :
    f ((tick src)^[n] s) = f s := by
  induction n with
  | zero => rfl
  | succ n ih => rw [Function.iterate_succ_apply', hf, ih]

/-! ### The phase over many control ticks (43_control_handler.md R112) -/

theorem tick_control_phase (hbits : s.cfg.phaseBits ≤ 16) :
    (tick .control s).phase.toNat = (s.phase.toNat + 323) % 2 ^ s.cfg.phaseBits :=
  controlHandler_phase_toNat (s := clearPending .control (raiseEvent .control s)) hbits

theorem iterate_tick_control_phase (hbits : s.cfg.phaseBits ≤ 16) (hphase : s.phase.toNat < 2 ^ s.cfg.phaseBits) (n : Nat) :
    ((tick .control)^[n] s).phase.toNat = (s.phase.toNat + 323 * n) % 2 ^ s.cfg.phaseBits := by
  have hcfg (n : Nat) : ((tick .control)^[n] s).cfg = s.cfg := iterate_tick_keeps (tick_cfg .control) n s
  induction n with
  | zero => rw [Nat.mul_zero, Nat.add_zero, Nat.mod_eq_of_lt hphase, Function.iterate_zero_apply]
  | succ n ih =>
    rw [Function.iterate_succ_apply', tick_control_phase (by rw [hcfg]; exact hbits), hcfg, ih, Nat.mod_add_mod,
      Nat.mul_succ, Nat.add_assoc]

/-- The phase increment is odd, so it generates the whole track. -/
theorem coprime_phaseInc (bits : Nat) : Nat.Coprime 323 (2 ^ bits) :=
  Nat.Coprime.pow_right bits (by decide)

/-- The phase is back after whole turns only. -/
theorem phase_return_iff {bits p : Nat} (hp : p < 2 ^ bits) (n : Nat) : (p + 323 * n) % 2 ^ bits = p ↔ 2 ^ bits ∣ n := by
  calc (p + 323 * n) % 2 ^ bits = p
    _ ↔ p + 323 * n ≡ p + 0 [MOD 2 ^ bits] := by rw [Nat.ModEq, Nat.add_zero, Nat.mod_eq_of_lt hp]
    _ ↔ 323 * n ≡ 0 [MOD 2 ^ bits] := ⟨Nat.ModEq.add_left_cancel' p, Nat.ModEq.add_left p⟩
    _ ↔ 2 ^ bits ∣ 323 * n := Nat.modEq_zero_iff_dvd
    _ ↔ 2 ^ bits ∣ n := (coprime_phaseInc bits).symm.dvd_mul_left

/-- Every phase is reached within one turn. -/
theorem exists_phase_eq {bits p x : Nat} (hp : p < 2 ^ bits) (hx : x < 2 ^ bits) :
    ∃ n < 2 ^ bits, (p + 323 * n) % 2 ^ bits = x := by
  obtain ⟨n, hn, hmul⟩ :=
    Nat.exists_mul_mod_eq_of_coprime (x + (2 ^ bits - p)) (coprime_phaseInc bits) (Nat.two_pow_pos bits).ne'
  have hway : p + (x + (2 ^ bits - p)) = x + 2 ^ bits := by omega
  exact ⟨n, hn, by rw [← Nat.add_mod_mod, hmul, Nat.add_mod_mod, hway, Nat.add_mod_right, Nat.mod_eq_of_lt hx]⟩

/-- Settles O29: 323 is odd, so coprime to the length of the track. -/
theorem phaseOrbitIsTheWholeTrack : Obligations.PhaseOrbitIsTheWholeTrack := by
  intro s hcfg hgie hphase
  obtain ⟨-, hbits⟩ := phaseBits_of_configOk hcfg
  refine ⟨fun n => ⟨_, performAll_ctTimes n hgie, iterate_tick_control_phase hbits hphase n, ?_⟩, fun x hx => ?_⟩
  · rw [← BitVec.toNat_inj, iterate_tick_control_phase hbits hphase, phase_return_iff hphase]
  · obtain ⟨n, hn, hreach⟩ := exists_phase_eq hphase hx
    exact ⟨n, _, hn, performAll_ctTimes n hgie, (iterate_tick_control_phase hbits hphase n).trans hreach⟩

end Sys2Proof.Machine
end

section
/-! A held button over many control ticks (43_control_handler.md section "Laws"; the spec's D17). -/

namespace Sys2Proof.Machine

variable {s t : State} {m h : Nat}

/-- A control tick with a qualified press: a transition, and the counter is armed (43_control_handler.md R111). -/
theorem tick_control_of_press (hq : qualifiedPress s = true) :
    (tick .control s).mode = modeCode (nextMode (effMode s.mode)) ∧
      (tick .control s).adcTrig = trigCode (trigOf (nextMode (effMode s.mode))) ∧ (tick .control s).debounce = 16#8 :=
  controlHandler_of_press (s := clearPending .control (raiseEvent .control s)) hq

/-- A control tick without one: no transition, and the counter counts down. -/
theorem tick_control_of_not_press (hq : qualifiedPress s = false) :
    (tick .control s).mode = s.mode ∧ (tick .control s).adcTrig = s.adcTrig ∧
      (tick .control s).debounce.toNat = s.debounce.toNat - 1 :=
  controlHandler_of_not_press (s := clearPending .control (raiseEvent .control s)) hq

/-- The state after the button has been held for `h` control ticks, from mode `m` and the counter at 0: one transition in
every 17 ticks, the first at the first. -/
structure HeldFor (m h : Nat) (t : State) : Prop where
  pressed : t.btnN = false
  mode_legal : t.mode ≠ 3#2
  mode_eq : t.mode.toNat = (m + (h + 16) / 17) % 3
  trig_eq : 0 < h → t.adcTrig = trigCode (trigOf (effMode t.mode))
  debounce_eq : t.debounce.toNat = (17 - h % 17) % 17

/-- While the button is held, a press is qualified every 17th tick. -/
theorem HeldFor.press_iff (ht : HeldFor m h t) : qualifiedPress t = true ↔ h % 17 = 0 := by
  rw [qualifiedPress_iff, ← BitVec.toNat_inj, ht.debounce_eq, BitVec.toNat_ofNat]
  have hlt := Nat.mod_lt h (y := 17) (by decide)
  constructor
  · rintro ⟨-, h0⟩
    omega
  · intro h0
    exact ⟨ht.pressed, by omega⟩

theorem HeldFor.succ (ht : HeldFor m h t) : HeldFor m (h + 1) (tick .control t) := by
  have hpressed : (tick .control t).btnN = false := by
    rw [tick, handlerOf_btnN]
    exact ht.pressed
  have hmode := ht.mode_eq
  have hdebounce := ht.debounce_eq
  cases hq : qualifiedPress t with
  | true =>
    have hturn := ht.press_iff.mp hq
    obtain ⟨hm, htr, hd⟩ := tick_control_of_press hq
    refine ⟨hpressed, hm ▸ modeCode_ne_three _, ?_, fun _ => by rw [htr, hm, effMode_modeCode], ?_⟩
    · rw [hm, modeCode_nextMode_toNat, modeCode_effMode ht.mode_legal]
      omega
    · rw [hd, BitVec.toNat_ofNat]
      omega
  | false =>
    have hturn : h % 17 ≠ 0 := by rw [ne_eq, ← ht.press_iff, hq]; decide
    obtain ⟨hm, htr, hd⟩ := tick_control_of_not_press hq
    refine ⟨hpressed, hm ▸ ht.mode_legal, ?_, fun _ => by rw [htr, hm, ht.trig_eq (by omega)], ?_⟩
    · rw [hm]
      omega
    · omega

/-- Held from the counter at 0, for any number of ticks. -/
theorem iterate_tick_heldFor (hbtn : s.btnN = false) (h0 : s.debounce = 0#8) (hmode : s.mode ≠ 3#2) (h : Nat) :
    HeldFor s.mode.toNat h ((tick .control)^[h] s) := by
  induction h with
  | zero =>
    refine ⟨hbtn, hmode, ?_, nofun, by rw [Function.iterate_zero_apply, h0]; rfl⟩
    have hne : s.mode.toNat ≠ 3 := fun h3 => hmode (BitVec.eq_of_toNat_eq h3)
    rw [Function.iterate_zero_apply]
    omega
  | succ h ih => rw [Function.iterate_succ_apply']; exact ih.succ

/-- Settles O33: `HeldFor` holds at first and is kept by every control tick. -/
theorem heldButtonRepeatsEverySeventeenTicks : Obligations.HeldButtonRepeatsEverySeventeenTicks := by
  intro s h hgie hbtn h0 hmode
  have hheld := iterate_tick_heldFor hbtn h0 hmode h
  have hdebounce := hheld.debounce_eq
  exact ⟨_, performAll_ctTimes h hgie, hheld.mode_eq, fun hpos => ⟨hheld.trig_eq hpos, by omega⟩⟩

end Sys2Proof.Machine
end

section
/-! The refresh handler over many ticks: who drives the ports (44_refresh_handler.md R126, R127), the period of the
threshold sweep (R128), and the duty cycle of an LED (41_threshold_builder.md R94). -/

namespace Sys2Proof.Machine

variable {s t : State}

/-! ### Gating (R126, R127) -/

/-- Driving the ports, the handler shows the buffer at the threshold it has just advanced, as read back from the ports. -/
theorem decodePorts_refreshHandler (hcfg : configOk s.cfg = true) (hdrives : drivesPorts s = true) :
    decodePorts s.cfg.pinTable (refreshHandler s).ports =
      buildPattern s.cfg.cmpInclusive s.buf (refreshHandler s).slice := by
  rw [refreshHandler_ports_of_drives hdrives,
    encodeThenDecodePortsIsThePattern _ _ _ (pinTableInjective_of_configOk hcfg)]

/-- Settles O35: gated and outside Attract the handler does not drive the ports, ungated it does (the spec's D8). -/
theorem refreshGatingDecidesWhoDrivesThePorts : Obligations.RefreshGatingDecidesWhoDrivesThePorts := by
  refine ⟨fun s hgated hmode hgie hpend => ?gated, fun s hcfg hungated hgie hpend => ?ungated⟩
  case gated =>
    have hne : effMode s.mode ≠ .attract := by
      obtain h | h := hmode <;> rw [h] <;> decide
    have hports := refreshHandler_ports_of_not_drives (s := clearPending .refresh s) (drivesPorts_ne_true hgated hne)
    exact ⟨_, exec_isrr hgie hpend, outputs_eq_iff.mpr ⟨hports, refreshHandler_adcTrig _⟩⟩
  case ungated =>
    refine ⟨_, exec_isrr hgie hpend, ?_⟩
    rw [refreshHandler_cfg]
    exact (decodePorts_refreshHandler (s := clearPending .refresh s) hcfg ((drivesPorts_iff s).mpr (.inl hungated))).trans
      (congrArg (buildPattern s.cfg.cmpInclusive s.buf) (refreshHandler_slice _))

/-! ### One refresh tick -/

@[simp] theorem tick_refresh_buf (s : State) : (tick .refresh s).buf = s.buf := by
  simp [tick, handlerOf]

@[simp] theorem drivesPorts_tick_refresh (s : State) : drivesPorts (tick .refresh s) = drivesPorts s := by
  simp [drivesPorts, tick, handlerOf]

theorem tick_refresh_slice (s : State) : (tick .refresh s).slice.toNat = (s.slice.toNat + 16) % 256 :=
  refreshHandler_slice_toNat _

theorem tick_refresh_ports (hdrives : drivesPorts s = true) : (tick .refresh s).ports =
    encodePorts s.cfg.pinTable (buildPattern s.cfg.cmpInclusive s.buf (tick .refresh s).slice) s.ports :=
  refreshHandler_ports_of_drives (s := clearPending .refresh (raiseEvent .refresh s)) hdrives

theorem decodePorts_tick_refresh (hcfg : configOk s.cfg = true) (hdrives : drivesPorts s = true) :
    decodePorts s.cfg.pinTable (tick .refresh s).ports =
      buildPattern s.cfg.cmpInclusive s.buf (tick .refresh s).slice :=
  decodePorts_refreshHandler (s := clearPending .refresh (raiseEvent .refresh s)) hcfg hdrives

/-! ### The period of the sweep (R128) -/

theorem iterate_tick_refresh_slice (s : State) (n : Nat) :
    ((tick .refresh)^[n] s).slice.toNat = (s.slice.toNat + 16 * n) % 256 := by
  have hlt := s.slice.isLt
  induction n with
  | zero => rw [Function.iterate_zero_apply]; omega
  | succ n ih => rw [Function.iterate_succ_apply', tick_refresh_slice, ih]; omega

/-- With the ports driven, what is shown after some ticks depends on the ports before them through the foreign bits only,
since the last pattern wins. -/
theorem iterate_tick_refresh_ports (hdrives : drivesPorts s = true) (n : Nat) : ((tick .refresh)^[n + 1] s).ports =
    encodePorts s.cfg.pinTable (buildPattern s.cfg.cmpInclusive s.buf ((tick .refresh)^[n + 1] s).slice) s.ports := by
  have hcfg (n : Nat) : ((tick .refresh)^[n] s).cfg = s.cfg := iterate_tick_keeps (tick_cfg .refresh) n s
  have hbuf (n : Nat) : ((tick .refresh)^[n] s).buf = s.buf := iterate_tick_keeps tick_refresh_buf n s
  have hdr (n : Nat) : drivesPorts ((tick .refresh)^[n] s) = true :=
    (iterate_tick_keeps drivesPorts_tick_refresh n s).trans hdrives
  induction n with
  | zero => exact tick_refresh_ports hdrives
  | succ n ih =>
    rw [Function.iterate_succ_apply' _ (n + 1), tick_refresh_ports (hdr _), hcfg, hbuf, ih, encodePorts_encodePorts]

/-- Settles O36: the threshold after 17 ticks is that after the first, and it decides what the driven ports show. -/
theorem refreshSweepHasPeriodSixteen : Obligations.RefreshSweepHasPeriodSixteen := by
  refine fun s hgie => ⟨fun n => ⟨_, performAll_rtTimes n hgie, iterate_tick_refresh_slice s n, ?_⟩, fun hdrives => ?_⟩
  · have hlt := s.slice.isLt
    rw [← BitVec.toNat_inj, iterate_tick_refresh_slice]
    omega
  · refine ⟨_, _, performAll_rtTimes 1 hgie, performAll_rtTimes 17 hgie, ?_⟩
    have hslice : ((tick .refresh)^[17] s).slice = ((tick .refresh)^[1] s).slice := by
      apply BitVec.eq_of_toNat_eq
      rw [iterate_tick_refresh_slice, iterate_tick_refresh_slice]
      omega
    rw [iterate_tick_refresh_ports hdrives 16, hslice, ← iterate_tick_refresh_ports hdrives 0]

/-! ### The duty cycle (41_threshold_builder.md R94) -/

/-- Is an LED of brightness `v` lit at the `k`-th threshold of the sweep? -/
def litAt (inclusive : Bool) (v : Byte) (k : Nat) : Bool := exceeds inclusive v (BitVec.ofNat 8 (16 * k))

/-- A refresh tick counts if the LED is lit after it. -/
theorem litCount_succ (led : Fin 16) (n : Nat) (hgie : s.gie = true) : litCount led (n + 1) s =
    (litCount led n (tick .refresh s)).map fun k =>
      k + asNat ((decodePorts (tick .refresh s).cfg.pinTable (tick .refresh s).ports).getLsbD led) := by
  have hrun : performAll (Pseudo.expand .rt) s = .next (tick .refresh s) :=
    performAll_tick (src := .refresh) (exec_tickr s) hgie
  rw [litCount, hrun]

/-- After a tick with the ports driven the LED is lit iff its entry exceeds the advanced threshold. -/
theorem tick_refresh_lit {j : Nat} (led : Fin 16) (hcfg : configOk s.cfg = true) (hdrives : drivesPorts s = true)
    (hslice : (tick .refresh s).slice = BitVec.ofNat 8 (16 * j)) :
    (decodePorts (tick .refresh s).cfg.pinTable (tick .refresh s).ports).getLsbD led =
      litAt s.cfg.cmpInclusive s.buf[led] j := by
  rw [tick_cfg, decodePorts_tick_refresh hcfg hdrives, buildPattern_getLsbD, hslice, litAt]

/-- The count of lit ticks is the count of thresholds at which the LED is lit. -/
theorem litCount_eq_count (led : Fin 16) (n : Nat) {j : Nat} (hcfg : configOk s.cfg = true) (hgie : s.gie = true)
    (hdrives : drivesPorts s = true) (hslice : s.slice = BitVec.ofNat 8 (16 * j)) :
    litCount led n s = some (Nat.count (fun k => litAt s.cfg.cmpInclusive s.buf[led] (j + 1 + k) = true) n) := by
  induction n generalizing s j with
  | zero => rfl
  | succ n ih =>
    have hnext : (tick .refresh s).slice = BitVec.ofNat 8 (16 * (j + 1)) := by
      apply BitVec.eq_of_toNat_eq
      rw [tick_refresh_slice, hslice, BitVec.toNat_ofNat, BitVec.toNat_ofNat]
      omega
    rw [litCount_succ led n hgie, tick_refresh_lit led hcfg hdrives hnext,
      ih (by rwa [tick_cfg]) (by rwa [tick_gie]) (by rwa [drivesPorts_tick_refresh]) hnext, Nat.count_succ']
    simp only [tick_cfg, tick_refresh_buf, Option.map_some, asNat, Nat.add_zero, Nat.add_assoc, Nat.add_comm 1]

/-- The thresholds repeat every 16 ticks, so any 16 in a row are those of a sweep from 0. -/
theorem count_litAt_shift (inclusive : Bool) (v : Byte) (a : Nat) :
    Nat.count (fun k => litAt inclusive v (a + k) = true) 16 = Nat.count (fun k => litAt inclusive v k = true) 16 := by
  have hperiod (k : Nat) : litAt inclusive v (16 + k) = litAt inclusive v k := by
    have hbyte : BitVec.ofNat 8 (16 * (16 + k)) = BitVec.ofNat 8 (16 * k) := by
      apply BitVec.eq_of_toNat_eq
      rw [BitVec.toNat_ofNat, BitVec.toNat_ofNat]
      omega
    rw [litAt, hbyte, litAt]
  have hfirst := Nat.count_add (fun k => litAt inclusive v k = true) a 16
  have hlast := Nat.count_add (fun k => litAt inclusive v k = true) 16 a
  simp only [hperiod] at hlast
  rw [Nat.add_comm 16 a] at hlast
  omega

/-- A predicate that holds below `m` only holds `m` times. -/
theorem count_eq_of_iff_lt {p : Nat → Prop} [DecidablePred p] {m n : Nat} (hmn : m ≤ n) (h : ∀ k < n, p k ↔ k < m) :
    Nat.count p n = m := by
  obtain ⟨d, rfl⟩ := Nat.exists_eq_add_of_le hmn
  have hbelow : Nat.count p m = m := Nat.count_iff_forall.mpr fun k hk => (h k (by omega)).mpr hk
  have habove : Nat.count (fun k => p (m + k)) d = 0 :=
    Nat.count_iff_forall_not.mpr fun k hk hp => absurd ((h _ (by omega)).mp hp) (by omega)
  rw [Nat.count_add, hbelow, habove, Nat.add_zero]

/-- In a sweep from 0 the LED is lit at the thresholds below (or up to) its brightness. -/
theorem count_litAt_sweep (inclusive : Bool) (v : Byte) : Nat.count (fun k => litAt inclusive v k = true) 16 =
    if inclusive then v.toNat / 16 + 1 else (v.toNat + 15) / 16 := by
  have hv := v.isLt
  refine count_eq_of_iff_lt (by split <;> omega) fun k hk => ?_
  have hthreshold : (BitVec.ofNat 8 (16 * k)).toNat = 16 * k := by
    rw [BitVec.toNat_ofNat]
    omega
  rw [litAt, exceeds_iff, hthreshold]
  cases inclusive with
  | false => simp only [Bool.false_eq_true, if_false]; omega
  | true => simp only [if_true]; omega

/-- Settles O37: the sweep from any multiple of 16 meets each threshold once. -/
theorem dutyCycleOfAFullSweep : Obligations.DutyCycleOfAFullSweep := by
  intro s led hcfg hgie hdrives haligned
  have hslice : s.slice = BitVec.ofNat 8 (16 * (s.slice.toNat / 16)) := by
    apply BitVec.eq_of_toNat_eq
    rw [BitVec.toNat_ofNat]
    omega
  rw [litCount_eq_count led 16 hcfg hgie hdrives hslice, count_litAt_shift, count_litAt_sweep]

end Sys2Proof.Machine
end

section
/-! Runs that meet several handlers: the newest sample (45_sample_handler.md, "Which sample is read") and the first
behaviour after reset (70_reset_and_hazards.md section 1). -/

namespace Sys2Proof.Machine

variable {s t : State}

/-! ### The newest sample -/

/-- A second result replaces the first: registers and flag are written again. -/
theorem performAll_adcdone_adcdone (v w : Sample) (ops : List Instr) (s : State) :
    performAll (.adcdone v :: .adcdone w :: ops) s = performAll (.adcdone w :: ops) s := by
  rw [performAll_cons_of_next _ (exec_adcdone v s), performAll_cons_of_next _ (exec_adcdone w _),
    performAll_cons_of_next _ (exec_adcdone w s)]
  rfl

/-- Outside Attract a mode has the shift that 45_sample_handler.md R131 gives it. -/
theorem exists_shiftOf {m : Mode} (c : Config) (h : m ≠ .attract) : ∃ shift, shiftOf c m = some shift ∧
    (shift = c.shiftDirect ∨ shift = c.shiftVu) ∧ (m = .direct → shift = c.shiftDirect) ∧
    (m = .vu → shift = c.shiftVu) := by
  cases m with
  | direct => exact ⟨_, rfl, .inl rfl, fun _ => rfl, nofun⟩
  | vu => exact ⟨_, rfl, .inr rfl, nofun, fun _ => rfl⟩
  | attract => exact absurd rfl h

/-- Outside Attract, a result served at once is shown as its bar. -/
theorem performAll_sample (v : Sample) {shift : Nat} (hgie : s.gie = true) (hcfg : configOk s.cfg = true)
    (hshift : shiftOf s.cfg (effMode s.mode) = some shift) : ∃ t, performAll [.adcdone v, .isrs] s = .next t ∧
      decodePorts s.cfg.pinTable t.ports = thermo (BitVec.ofNat 4 (v.toNat / 2 ^ shift)) := by
  have hrun := performAll_tick (src := .sample) (t := { s with adcH := highByte v, adcL := lowByte v })
    (exec_adcdone v s) hgie
  have hsample : (highByte v).toNat * 256 + (lowByte v).toNat = v.toNat := by
    rw [highByte_toNat, lowByte_toNat]
    omega
  have hports := sampleHandler_ports_of_shift (s := clearPending .sample (raiseEvent .sample
    { s with adcH := highByte v, adcL := lowByte v })) hshift
  refine ⟨_, hrun, ?_⟩
  rw [tick, handlerOf, hports, ← hsample]
  exact encodeThenDecodePortsIsThePattern _ _ _ (pinTableInjective_of_configOk hcfg)

/-- Settles O43: the second result overwrites the first, and a result served at once is shown. -/
theorem newestSampleIsShown : Obligations.NewestSampleIsShown := by
  refine ⟨fun s v w => performAll_adcdone_adcdone v w [.isrs] s, fun s v hgie hmode hcfg => ?_⟩
  obtain ⟨shift, hshift, hor, hdirect, hvu⟩ := exists_shiftOf s.cfg hmode
  obtain ⟨t, hrun, hbar⟩ := performAll_sample v hgie hcfg hshift
  exact ⟨t, shift, hrun, hor, hdirect, hvu, hbar⟩

/-! ### The first behaviour after reset -/

/-- Settles O58: `START`, a refresh tick and a control tick. The button is released, so the mode stays Attract. -/
theorem firstBehaviourAfterReset : Obligations.FirstBehaviourAfterReset := by
  have hrefresh := performAll_tick (src := .refresh) (exec_tickr (setGie true State.reset)) rfl
  have hcontrol := performAll_tick (src := .control) (exec_tickc (tick .refresh (setGie true State.reset))) rfl
  refine ⟨_, _, _, performAll_singleton .start State.reset, by decide, hrefresh, ?threshold, hcontrol, ?frame⟩
  case threshold => exact decodePorts_tick_refresh (s := setGie true State.reset) (by decide) rfl
  case frame =>
    exact controlHandler_buf_of_attract
      (s := clearPending .control (raiseEvent .control (tick .refresh (setGie true State.reset)))) rfl

end Sys2Proof.Machine
end

section
/-! Events and handler steps counted over a run (60_exceptions.md sections 2 and 3), and what follows for the converter
(46_environment_ops.md R150 (a)). -/

namespace Sys2Proof.Machine

variable {s t : State} {src : Source} {i : Instr} {ops : List Instr}

/-! ### What one operation does to one source's flag -/

@[simp] theorem eventOf_handler (src : Source) : eventOf src.handler = none := by
  cases src <;> rfl

/-- A handler step finds its flag set and leaves it clear (R167, R168). -/
theorem exec_handler_flag (h : exec src.handler s = .next t) : s.pend.get src = true ∧ t.pend.get src = false := by
  obtain ⟨-, hset⟩ := (enabled_iff s src).mp (enabled_of_exec_handler h)
  exact ⟨hset, by rw [exec_handler_pend h, Pending.get_set_self]⟩

/-- Whatever the flag, an event leaves it set (R165, R166). -/
theorem exec_event_flag (hev : eventOf i = some src) (h : exec i s = .next t) : t.pend.get src = true := by
  obtain ⟨u, hu, hpend⟩ := exec_event s hev
  rw [h] at hu
  cases hu
  rw [hpend, Pending.get_set_self]

/-- Nothing but `RST`, its handler step and its event changes a flag. -/
theorem exec_flag_of_ne (hrst : i ≠ .rst) (hhandler : i ≠ src.handler) (hev : eventOf i ≠ some src)
    (h : exec i s = .next t) : t.pend.get src = s.pend.get src := by
  obtain ⟨hi, -⟩ | ⟨other, rfl, hpend⟩ | ⟨other, hother, hpend⟩ | hpend := exec_pend_cases h
  · exact absurd hi hrst
  · have hne : src ≠ other := fun e => hhandler (e ▸ rfl)
    rw [hpend, Pending.get_set_ne s.pend false hne]
  · have hne : src ≠ other := fun e => hev (e ▸ hother)
    rw [hpend, Pending.get_set_ne s.pend true hne]
  · rw [hpend]

/-! ### Counting over a run -/

/-- One operation other than `RST`: a handler step uses up a flag, an event provides one, unless it was set already. -/
theorem exec_balance (hrst : i ≠ .rst) (h : exec i s = .next t) :
    (if i == src.handler then 1 else 0) + asNat (t.pend.get src) ≤
        (if decide (eventOf i = some src) then 1 else 0) + asNat (s.pend.get src) ∧
      ((eventOf i = some src → s.pend.get src = false) →
        (if i == src.handler then 1 else 0) + asNat (t.pend.get src) =
          (if decide (eventOf i = some src) then 1 else 0) + asNat (s.pend.get src)) := by
  by_cases hhandler : i = src.handler
  · subst hhandler
    obtain ⟨hset, hclear⟩ := exec_handler_flag h
    simp [hset, hclear, asNat]
  · by_cases hev : eventOf i = some src
    · have hset := exec_event_flag hev h
      simp +contextual [hhandler, hev, hset, asNat]
    · rw [exec_flag_of_ne hrst hhandler hev h]
      simp [hhandler, hev]

theorem traceOf_cons_of_next (ops : List Instr) (h : exec i s = .next t) :
    traceOf (i :: ops) s = (s, i) :: traceOf ops t := by
  simp only [traceOf, h]

theorem noOverrun_cons (tr : List (State × Instr)) : noOverrun ((s, i) :: tr) = true ↔
    (∀ src, eventOf i = some src → s.pend.get src = false) ∧ noOverrun tr = true := by
  cases h : eventOf i <;> simp [noOverrun, h]

/-- Settles O14, by induction on the run: `exec_balance` for each operation. -/
theorem eventsMergeAndAreNeverQueued : Obligations.EventsMergeAndAreNeverQueued := by
  intro ops
  induction ops with
  | nil =>
    intro s t src _ h
    cases h
    exact ⟨Nat.le_refl _, fun _ => rfl⟩
  | cons i ops ih =>
    intro s t src hops h
    obtain ⟨hi, hrest⟩ := List.ne_and_not_mem_of_not_mem_cons hops
    obtain ⟨u, hexec, hrun⟩ := performAll_cons_eq_next.mp h
    obtain ⟨hle, heq⟩ := exec_balance (src := src) hi.symm hexec
    obtain ⟨ihle, iheq⟩ := ih u t src hrest hrun
    rw [List.count_cons, List.countP_cons, traceOf_cons_of_next ops hexec, noOverrun_cons]
    refine ⟨by omega, fun ⟨hfree, hfrees⟩ => ?_⟩
    have hstep := heq (hfree src)
    have htail := iheq hfrees
    omega

/-! ### No handler step without an event -/

/-- Without an event a clear flag stays clear, and there is no handler step. -/
theorem exec_flag_clear (hclear : s.pend.get src = false) (hev : eventOf i ≠ some src) (h : exec i s = .next t) :
    i ≠ src.handler ∧ t.pend.get src = false := by
  have hhandler : i ≠ src.handler := by
    rintro rfl
    obtain ⟨hset, -⟩ := exec_handler_flag h
    rw [hclear] at hset
    cases hset
  refine ⟨hhandler, ?_⟩
  by_cases hrst : i = .rst
  · subst hrst
    cases h
    rw [resetBlock_pend]
    cases src <;> rfl
  · rw [exec_flag_of_ne hrst hhandler hev h, hclear]

theorem performAll_no_handler (hclear : s.pend.get src = false) (hev : ∀ i ∈ ops, eventOf i ≠ some src)
    (h : performAll ops s = .next t) : src.handler ∉ ops := by
  induction ops generalizing s with
  | nil => nofun
  | cons i ops ih =>
    obtain ⟨hi, hrest⟩ := List.forall_mem_cons.mp hev
    obtain ⟨u, hexec, hrun⟩ := performAll_cons_eq_next.mp h
    obtain ⟨hhandler, hstays⟩ := exec_flag_clear hclear hi hexec
    exact List.not_mem_cons_of_ne_of_not_mem hhandler.symm (ih hstays hrest hrun)

theorem eventOf_eq_sample (h : eventOf i = some .sample) : ∃ v, i = .adcdone v := by
  cases i with
  | adcdone v => exact ⟨v, rfl⟩
  | nop | rst | start | stop | tickc | tickr | btn level | pinwr p v | isrc | isrr | isrs => cases h

/-- The converter's result is the only event of the sample source. -/
theorem performAll_no_isrs (hclear : s.pend.s = false) (hno : ∀ v, Instr.adcdone v ∉ ops)
    (h : performAll ops s = .next t) : Instr.isrs ∉ ops := by
  refine performAll_no_handler (src := .sample) hclear (fun i hi hev => ?_) h
  obtain ⟨v, rfl⟩ := eventOf_eq_sample hev
  exact hno v hi

/-- Under premise R150 (a), with the trigger off and no conversion in progress, an operation is no result, and no conversion
comes into progress. -/
theorem converterObeys_cons_of_off {tr : List (State × Instr)} (hoff : sampling s = false)
    (h : converterObeys false ((s, i) :: tr) = true) : (∀ v, i ≠ .adcdone v) ∧ converterObeys false tr = true := by
  cases i with
  | adcdone v => simp [converterObeys, hoff] at h
  | nop | rst | start | stop | tickc | tickr | btn level | pinwr p v | isrc | isrr | isrs =>
    exact ⟨nofun, by simpa [converterObeys, hoff] using h⟩

/-- Under premise R150 (a), with the trigger off and no conversion in progress no result comes. -/
theorem converterObeys_no_adcdone {tr : List (State × Instr)} (hoff : ∀ x ∈ tr, sampling x.1 = false)
    (h : converterObeys false tr = true) (v : Sample) : Instr.adcdone v ∉ tr.map Prod.snd := by
  induction tr with
  | nil => nofun
  | cons x tr ih =>
    obtain ⟨hx, hrest⟩ := List.forall_mem_cons.mp hoff
    obtain ⟨hi, hobeys⟩ := converterObeys_cons_of_off hx h
    exact List.not_mem_cons_of_ne_of_not_mem (hi v).symm (ih hrest hobeys)

/-- A completed run has all its operations in its trace. -/
theorem traceOf_map_snd (h : performAll ops s = .next t) : (traceOf ops s).map Prod.snd = ops := by
  induction ops generalizing s with
  | nil => rfl
  | cons i ops ih =>
    obtain ⟨u, hexec, hrun⟩ := performAll_cons_eq_next.mp h
    rw [traceOf_cons_of_next ops hexec, List.map_cons, ih hrun]

/-- Settles O17: a handler step needs an event, and with the trigger off the converter gives none. -/
theorem noSampleHandlerWithoutConversion : Obligations.NoSampleHandlerWithoutConversion := by
  refine ⟨fun ops s t hclear hno h => performAll_no_isrs hclear hno h, fun ops s t hclear hoff hobeys h => ?_⟩
  refine performAll_no_isrs hclear (fun v => ?_) h
  rw [← traceOf_map_snd h]
  exact converterObeys_no_adcdone hoff hobeys v

end Sys2Proof.Machine
end
